-- ==== Sys2Proof/Word.lean ====
section
/-!
DEFINITION. The words of the device and the fields of a bus transaction (00_scope R7, R8; 30_encoding R90).
-/

namespace Sys2Proof

/-- A byte of a transaction's buffer or of external memory. -/
abbrev Byte := BitVec 8

/-- A value of a 32-bit register (`REG_W`, R7), and the bit pattern of a binary32 element. -/
abbrev Word := BitVec 32

/-- A value of a pointer register, a window offset or an external address (`PTR_W`, `DMA_ADDR_W`, R7, R60). -/
abbrev Ptr := BitVec 64

/-- The direction of a bus transaction or of a DMA request (R90, R201). -/
inductive Dir where
  | read
  | write
deriving DecidableEq, Repr

/-- The two legal lengths of a register access (`ACCESS_LENS`, R7). -/
inductive AccessLen where
  | four
  | eight
deriving DecidableEq, Repr

/-- The data operand of a write of legal length (R92): `four` holds `wdata`, `eight` holds `wdata64`. -/
inductive WriteData where
  | four (wdata : Word)
  | eight (wdata64 : Ptr)
deriving DecidableEq, Repr

/-- One bus transaction `handle_access(address, direction, buffer, length)` (R90). A read carries its length and
no data, since the device fills its buffer; a write's length is the length of its buffer, since `buf` is
`len` bytes (DESIGN CHOICE, log 23). -/
inductive Transaction where
  | read (addr : Ptr) (len : Nat)
  | write (addr : Ptr) (buf : List Byte)
deriving DecidableEq, Repr

/-- The field `dir` of R90. -/
def Transaction.dir : Transaction → Dir
  | .read _ _ => .read
  | .write _ _ => .write

/-- The field `addr` of R90: a byte offset inside the register window. -/
def Transaction.addr : Transaction → Ptr
  | .read a _ => a
  | .write a _ => a

/-- The field `len` of R90. -/
def Transaction.len : Transaction → Nat
  | .read _ n => n
  | .write _ buf => buf.length

/-- The number of bytes of a legal length. -/
def AccessLen.bytes : AccessLen → Nat
  | .four => 4
  | .eight => 8

end Sys2Proof
end

