-- ==== Sys2Proof/Config.lean ====
section
/-!
DEFINITION. What an implementation fixes (00_scope R7) and the free values of the model: constants with no body,
of which no proof can know more than their type.
-/

namespace Sys2Proof

/-- The parameters `OFF_*` (R7, R61): the byte offset of each register in the register window. -/
structure RegMap where
  control : Ptr
  status : Ptr
  dimN : Ptr
  aPtr : Ptr
  bPtr : Ptr
  cPtr : Ptr
  intStatus : Ptr
  intEnable : Ptr
deriving DecidableEq, Repr

/-- The byte ranges the eight registers occupy, as (first byte, width). -/
def RegMap.ranges (m : RegMap) : List (Nat × Nat) :=
  [(m.control.toNat, 4), (m.status.toNat, 4), (m.dimN.toNat, 4), (m.intStatus.toNat, 4), (m.intEnable.toNat, 4),
   (m.aPtr.toNat, 8), (m.bPtr.toNat, 8), (m.cPtr.toNat, 8)]

/-- The condition of R61 on any assignment of offsets: "every offset is a multiple of 4, every pointer offset is a
multiple of 8, and the byte ranges do not overlap". -/
abbrev RegMap.Acceptable (m : RegMap) : Prop :=
  (∀ r ∈ m.ranges, r.1 % r.2 = 0) ∧
  m.ranges.Pairwise (fun r q => r.1 + r.2 ≤ q.1 ∨ q.1 + q.2 ≤ r.1)

/-- `N_MAX` (R7): the largest legal matrix dimension. -/
def Config.nMax : Nat := 256

/-- `ELEM_BYTES` (R7): bytes per matrix element. -/
def Config.elemBytes : Nat := 4

/-- `SENTINEL32` (R126, decision D5): OPEN, the data of a 4-byte read of an undefined address (log 4). -/
opaque Config.sentinel32 : Word

/-- `SENTINEL64` (R126, decision D5): OPEN, the data of an 8-byte read of an undefined address (log 4). -/
opaque Config.sentinel64 : Ptr

/-- Sign and fraction of the NaN a binary32 multiplication of these operands gives (R225: "which NaN ... is not
specified"): the sign bit, and `k` for the fraction field `k + 1`, so that every NaN is possible (log 15). -/
opaque Config.nanOfMul : Word → Word → Bool × Fin 8388607

/-- Sign and fraction of the NaN a binary32 addition of these operands gives, as `Config.nanOfMul` (log 15). -/
opaque Config.nanOfAdd : Word → Word → Bool × Fin 8388607

/-- Free 32-bit values: `eng.job.n` and `job.n` where the spec calls them unspecified, and a buffer element outside a
buffer's contents (R43, R300; log 10, 13). -/
opaque Config.freeWord : Nat → Word

/-- Free 64-bit values: the pointers of `eng.job` and `job` where the spec calls them unspecified (R43, R300; log 10). -/
opaque Config.freePtr : Nat → Ptr

/-- Free buffer contents where the spec calls them unspecified (R43, R222, R300; log 10 to 12). -/
opaque Config.freeBuffer : Nat → List Word

/-- What `addr + i` means once it passes 2^64, which is "the endpoint's matter" (R207): for request number `k` and the
sum `a`, the external address it stands for, or no byte at all (log 6). -/
opaque Config.pastTop : (k : Nat) → (a : Nat) → Option Ptr

/-- The byte the endpoint returns for a sum `a` past 2^64 that stands for no byte, at request number `k` (R207; log 6). -/
opaque Config.openByte : (k : Nat) → (a : Nat) → Byte

end Sys2Proof
end

