-- ==== Sys2Proof/Syntax.lean ====
section
/-!
DEFINITION. The operations of the device: one constructor per row of spec/opcode_table.json (30_encoding R96), in the
table's order.
-/

namespace Sys2Proof

/-- The 42 operations of R96. A constructor's arguments are the operands its rule reads: the length of a read that
admits two, the data of a write, the offset of an undefined access, the whole transaction of a rejected one. -/
inductive Instr where
  | accBadlen (t : Transaction)
  | rdControl (len : AccessLen)
  | wrControl (data : WriteData)
  | rdStatus (len : AccessLen)
  | wrStatus (data : WriteData)
  | rdDimN (len : AccessLen)
  | wrDimN (data : WriteData)
  | rdAPtr
  | rdAPtrLo
  | rdAPtrHi
  | wrAPtr (wdata64 : Ptr)
  | wrAPtrLo (wdata : Word)
  | wrAPtrHi (wdata : Word)
  | rdBPtr
  | rdBPtrLo
  | rdBPtrHi
  | wrBPtr (wdata64 : Ptr)
  | wrBPtrLo (wdata : Word)
  | wrBPtrHi (wdata : Word)
  | rdCPtr
  | rdCPtrLo
  | rdCPtrHi
  | wrCPtr (wdata64 : Ptr)
  | wrCPtrLo (wdata : Word)
  | wrCPtrHi (wdata : Word)
  | rdIntStatus (len : AccessLen)
  | wrIntStatus (data : WriteData)
  | rdIntEnable (len : AccessLen)
  | wrIntEnable (data : WriteData)
  | rdUndef (addr : Ptr) (len : AccessLen)
  | wrUndef (addr : Ptr) (data : WriteData)
  | engStart
  | engRdA
  | engRdB
  | engCompute
  | engWrC
  | engDone
  | engError
  | ctlReset
  | ctlStart
  | irqEval
  | por
deriving DecidableEq, Repr

end Sys2Proof
end

