-- ==== Sys2Proof/WellFormed.lean ====
section
/-!
DEFINITION. When a term of `Instr` is an operation of the device: the two fall-through rows carry operands that their
decode condition restricts (30_encoding R97, R98); every other row's operands are right by their type.
-/

namespace Sys2Proof

/-- R98: the only lengths the device rejects are those that are neither 4 nor 8. -/
def illegalLength (n : Nat) : Bool := n != 4 && n != 8

/-- R97: an `(addr, len)` with a legal length that no register answers: no 32-bit register and no pointer register has
this offset, and a 4-byte access is not at a pointer's `base + 4`. -/
def RegMap.undefinedAt (m : RegMap) (addr : Ptr) (len : AccessLen) : Bool :=
  !([m.control, m.status, m.dimN, m.intStatus, m.intEnable].contains addr) &&
  !([m.aPtr, m.bPtr, m.cPtr].contains addr) &&
  !(len == .four && [m.aPtr + 4, m.bPtr + 4, m.cPtr + 4].contains addr)

/-- The length of a write's data operand. -/
def WriteData.len : WriteData → AccessLen
  | .four _ => .four
  | .eight _ => .eight

/-- Well-formedness under a register map. -/
def Instr.wellFormedIn (m : RegMap) : Instr → Bool
  | .accBadlen t => illegalLength t.len
  | .rdUndef addr len => m.undefinedAt addr len
  | .wrUndef addr data => m.undefinedAt addr data.len
  | .rdControl _ | .wrControl _ | .rdStatus _ | .wrStatus _ | .rdDimN _ | .wrDimN _ => true
  | .rdAPtr | .rdAPtrLo | .rdAPtrHi | .wrAPtr _ | .wrAPtrLo _ | .wrAPtrHi _ => true
  | .rdBPtr | .rdBPtrLo | .rdBPtrHi | .wrBPtr _ | .wrBPtrLo _ | .wrBPtrHi _ => true
  | .rdCPtr | .rdCPtrLo | .rdCPtrHi | .wrCPtr _ | .wrCPtrLo _ | .wrCPtrHi _ => true
  | .rdIntStatus _ | .wrIntStatus _ | .rdIntEnable _ | .wrIntEnable _ => true
  | .engStart | .engRdA | .engRdB | .engCompute | .engWrC | .engDone | .engError => true
  | .ctlReset | .ctlStart | .irqEval | .por => true

end Sys2Proof
end

