-- ==== Sys2Proof/Decode.lean ====
section
/-!
DEFINITION. The device's register map, which stands here so that a later repair can mend it; data assembly (30_encoding
R92); the decode of a bus transaction (R93 to R97) and its inverse; and the byte descriptor by which a transaction is
written as numbered bits (the model's own framing, log 1).
-/

namespace Sys2Proof

/-! ## The device's own register map (R61) -/

/-- The register map of this device: the spec's default offsets (R7, R61, decision D1; UNVERIFIED, log 3). -/
def Config.regMap : RegMap where
  control := 0x00
  status := 0x04
  dimN := 0x08
  aPtr := 0x10
  bPtr := 0x18
  cPtr := 0x20
  intStatus := 0x28
  intEnable := 0x2C

/-- Well-formedness under the device's own register map. -/
def Instr.wellFormed (i : Instr) : Bool := i.wellFormedIn Config.regMap

/-! ## Byte order (R9, R62) -/

/-- The value of a byte sequence, byte 0 least significant: `le32` and `le64` of R9 on four and eight bytes. -/
def leNat : List Byte → Nat
  | [] => 0
  | b :: bs => b.toNat + 256 * leNat bs

/-- `bytes_le(v, n)` of R9: the `n` low bytes of `v`, least significant first. -/
def bytesLe (v : Nat) : Nat → List Byte
  | 0 => []
  | n + 1 => BitVec.ofNat 8 v :: bytesLe (v / 256) n

/-- `le32` of R9. -/
def le32 (bs : List Byte) : Word := BitVec.ofNat 32 (leNat bs)

/-- `le64` of R9. -/
def le64 (bs : List Byte) : Ptr := BitVec.ofNat 64 (leNat bs)

/-! ## Decode (R93) -/

/-- The legal length a natural number names, if it does (R93 step 1). -/
def legalLen (n : Nat) : Option AccessLen :=
  if n = 4 then some .four else if n = 8 then some .eight else none

/-- The data operand of a write buffer of legal length (R92). -/
def writeData (buf : List Byte) : Option WriteData :=
  match legalLen buf.length with
  | some .four => some (.four (le32 buf))
  | some .eight => some (.eight (le64 buf))
  | none => none

/-- R93 steps 2 to 5 for a read of legal length. -/
def decodeRead (m : RegMap) (addr : Ptr) (len : AccessLen) : Instr :=
  if addr = m.control then .rdControl len
  else if addr = m.status then .rdStatus len
  else if addr = m.dimN then .rdDimN len
  else if addr = m.intStatus then .rdIntStatus len
  else if addr = m.intEnable then .rdIntEnable len
  else if addr = m.aPtr then (match len with | .eight => .rdAPtr | .four => .rdAPtrLo)
  else if addr = m.bPtr then (match len with | .eight => .rdBPtr | .four => .rdBPtrLo)
  else if addr = m.cPtr then (match len with | .eight => .rdCPtr | .four => .rdCPtrLo)
  else if addr = m.aPtr + 4 ∧ len = .four then .rdAPtrHi
  else if addr = m.bPtr + 4 ∧ len = .four then .rdBPtrHi
  else if addr = m.cPtr + 4 ∧ len = .four then .rdCPtrHi
  else .rdUndef addr len

/-- R93 step 4 for a 4-byte write: the high halves, else the undefined address of step 5. -/
def decodeWriteHigh (m : RegMap) (addr : Ptr) (data : WriteData) : Instr :=
  match data with
  | .eight _ => .wrUndef addr data
  | .four v =>
    if addr = m.aPtr + 4 then .wrAPtrHi v
    else if addr = m.bPtr + 4 then .wrBPtrHi v
    else if addr = m.cPtr + 4 then .wrCPtrHi v
    else .wrUndef addr data

/-- R93 steps 2 to 5 for a write of legal length. -/
def decodeWrite (m : RegMap) (addr : Ptr) (data : WriteData) : Instr :=
  if addr = m.control then .wrControl data
  else if addr = m.status then .wrStatus data
  else if addr = m.dimN then .wrDimN data
  else if addr = m.intStatus then .wrIntStatus data
  else if addr = m.intEnable then .wrIntEnable data
  else if addr = m.aPtr then (match data with | .eight v => .wrAPtr v | .four v => .wrAPtrLo v)
  else if addr = m.bPtr then (match data with | .eight v => .wrBPtr v | .four v => .wrBPtrLo v)
  else if addr = m.cPtr then (match data with | .eight v => .wrCPtr v | .four v => .wrCPtrLo v)
  else decodeWriteHigh m addr data

/-- R93: the operation a transaction selects, under a register map. The length is looked at first (R272 (a)). -/
def decodeIn (m : RegMap) (t : Transaction) : Instr :=
  match t with
  | .read addr n =>
    match legalLen n with
    | some len => decodeRead m addr len
    | none => .accBadlen t
  | .write addr buf =>
    match writeData buf with
    | some data => decodeWrite m addr data
    | none => .accBadlen t

/-- R93 under the device's own register map. Total: every transaction is some operation. -/
def decode (t : Transaction) : Instr := decodeIn Config.regMap t

/-! ## Encode (R96) -/

/-- The bytes of a write's data operand, byte 0 least significant (R92). -/
def WriteData.bytes : WriteData → List Byte
  | .four v => bytesLe v.toNat 4
  | .eight v => bytesLe v.toNat 8

/-- The transaction of an operation, from the columns dir, len and addr of R96; none for a row of format ENG, SUB or
EVT, which "is not an encoding but a guard" (R91). -/
def encodeIn (m : RegMap) : Instr → Option Transaction
  | .accBadlen t => some t
  | .rdControl len => some (.read m.control len.bytes)
  | .wrControl data => some (.write m.control data.bytes)
  | .rdStatus len => some (.read m.status len.bytes)
  | .wrStatus data => some (.write m.status data.bytes)
  | .rdDimN len => some (.read m.dimN len.bytes)
  | .wrDimN data => some (.write m.dimN data.bytes)
  | .rdAPtr => some (.read m.aPtr 8)
  | .rdAPtrLo => some (.read m.aPtr 4)
  | .rdAPtrHi => some (.read (m.aPtr + 4) 4)
  | .wrAPtr v => some (.write m.aPtr (bytesLe v.toNat 8))
  | .wrAPtrLo v => some (.write m.aPtr (bytesLe v.toNat 4))
  | .wrAPtrHi v => some (.write (m.aPtr + 4) (bytesLe v.toNat 4))
  | .rdBPtr => some (.read m.bPtr 8)
  | .rdBPtrLo => some (.read m.bPtr 4)
  | .rdBPtrHi => some (.read (m.bPtr + 4) 4)
  | .wrBPtr v => some (.write m.bPtr (bytesLe v.toNat 8))
  | .wrBPtrLo v => some (.write m.bPtr (bytesLe v.toNat 4))
  | .wrBPtrHi v => some (.write (m.bPtr + 4) (bytesLe v.toNat 4))
  | .rdCPtr => some (.read m.cPtr 8)
  | .rdCPtrLo => some (.read m.cPtr 4)
  | .rdCPtrHi => some (.read (m.cPtr + 4) 4)
  | .wrCPtr v => some (.write m.cPtr (bytesLe v.toNat 8))
  | .wrCPtrLo v => some (.write m.cPtr (bytesLe v.toNat 4))
  | .wrCPtrHi v => some (.write (m.cPtr + 4) (bytesLe v.toNat 4))
  | .rdIntStatus len => some (.read m.intStatus len.bytes)
  | .wrIntStatus data => some (.write m.intStatus data.bytes)
  | .rdIntEnable len => some (.read m.intEnable len.bytes)
  | .wrIntEnable data => some (.write m.intEnable data.bytes)
  | .rdUndef addr len => some (.read addr len.bytes)
  | .wrUndef addr data => some (.write addr data.bytes)
  | .engStart | .engRdA | .engRdB | .engCompute | .engWrC | .engDone | .engError => none
  | .ctlReset | .ctlStart | .irqEval | .por => none

/-- R96 under the device's own register map. -/
def encode (i : Instr) : Option Transaction := encodeIn Config.regMap i

/-! ## The byte descriptor (the model's own, DESIGN CHOICE, log 1)

R90 gives the fields of a transaction and no bit layout (R104: the table's `match` and `mask` "apply to the 64-bit
`addr`"). The descriptor puts the offset first, so that the table's numbering of the offset's bits is kept, then one byte
for the direction (0 read, 1 write), then one byte for the length, biased so that 0 stands for 4, then a write's buffer. -/

/-- Why a byte sequence is no transaction descriptor. -/
inductive DecodeError where
  /-- Fewer than ten bytes, or fewer buffer bytes than the length says. -/
  | tooShort
  /-- The direction byte is neither 0 nor 1. -/
  | badDirection
deriving DecidableEq, Repr

/-- The number of bytes before a descriptor's buffer. -/
def headerBytes : Nat := 10

/-- The length a biased length byte stands for: 4, 5, … 255, 0, 1, 2, 3. -/
def unbiasLen (b : Byte) : Nat := (b.toNat + 4) % 256

/-- Reads one descriptor off the front of a byte sequence, and gives the bytes after it. -/
def parse : List Byte → Except DecodeError (Transaction × List Byte)
  | b0 :: b1 :: b2 :: b3 :: b4 :: b5 :: b6 :: b7 :: d :: l :: rest =>
    let addr := le64 [b0, b1, b2, b3, b4, b5, b6, b7]
    let n := unbiasLen l
    if d = 0 then .ok (.read addr n, rest)
    else if d = 1 then
      if (rest.take n).length < n then .error .tooShort else .ok (.write addr (rest.take n), rest.drop n)
    else .error .badDirection
  | _ => .error .tooShort

/-- The descriptor of a transaction; `parse` reads it back where the length is below 256. -/
def frame : Transaction → List Byte
  | .read addr n => bytesLe addr.toNat 8 ++ [0, BitVec.ofNat 8 (n + 252)]
  | .write addr buf => bytesLe addr.toNat 8 ++ [1, BitVec.ofNat 8 (buf.length + 252)] ++ buf

/-- The bytes of a word of `nbits` bits, every bit above them zero, up to the longest descriptor. -/
def wordBytes (nbits w : Nat) : List Byte := bytesLe (w % 2 ^ nbits) (headerBytes + 255)

/-- The transaction whose descriptor a word holds. -/
def transactionOfWord (nbits w : Nat) : Option Transaction :=
  match parse (wordBytes nbits w) with
  | .ok (t, _) => some t
  | .error _ => none

/-- The operation the decoder reads from a word of `nbits` bits, bit 0 the least significant bit of the first byte. -/
def decodeTableWord (nbits w : Nat) : Option Instr :=
  match transactionOfWord nbits w with
  | some t => some (decode t)
  | none => none

end Sys2Proof
end

