-- ==== Sys2Proof/Machine/State.lean ====
section
/-!
DEFINITION. The state of the device and of what stands around it (10_state R20 to R48), the reasons a step can stop, and
the state after power-on. Plain data throughout.
-/

namespace Sys2Proof.Machine

open Sys2Proof

/-- The Register File (R20): eight registers, each pointer held as one 64-bit cell. -/
structure RegFile where
  /-- CONTROL (R21). -/
  control : Word
  /-- STATUS (R22, R23). -/
  status : Word
  /-- DIM_N (R24). -/
  dimN : Word
  /-- MATRIX_A_PTR (R25). -/
  aPtr : Ptr
  /-- MATRIX_B_PTR (R26). -/
  bPtr : Ptr
  /-- MATRIX_C_PTR (R27). -/
  cPtr : Ptr
  /-- INT_STATUS (R28). -/
  intStatus : Word
  /-- INT_ENABLE (R29). -/
  intEnable : Word
deriving DecidableEq, Repr

/-- The power-on values of the registers (R48): all zero but STATUS, which is IDLE only. -/
def RegFile.powerOn : RegFile where
  control := 0
  status := 0x00000001
  dimN := 0
  aPtr := 0
  bPtr := 0
  cPtr := 0
  intStatus := 0
  intEnable := 0

/-- `eng.phase` (R40): the control state of the Compute Engine. -/
inductive Phase where
  /-- `P_WAIT`: blocked, waiting for a start signal. -/
  | wait
  /-- `P_RD_A`: about to read operand A. -/
  | rdA
  /-- `P_RD_B`: about to read operand B. -/
  | rdB
  /-- `P_COMPUTE`: operands held, product not yet computed. -/
  | compute
  /-- `P_WR_C`: product computed, not yet written out. -/
  | wrC
  /-- `P_FIN`: result written, completion not yet reported. -/
  | fin
  /-- `P_FAIL`: job aborted, failure not yet reported. -/
  | fail
deriving DecidableEq, Repr

/-- A Compute Job (R11, R41): the dimension and the three buffer addresses. -/
structure Job where
  n : Word
  a : Ptr
  b : Ptr
  c : Ptr
deriving DecidableEq, Repr

/-- The engine's control state and private working state (R40, R43). A buffer is the list of its elements in index
order, each a binary32 bit pattern. -/
structure Engine where
  phase : Phase
  job : Job
  bufA : List Word
  bufB : List Word
  bufC : List Word
deriving DecidableEq, Repr

/-- The two sticky model-level marks (R46). The hardware has no such bits; a run that carries one says nothing about it. -/
structure Marks where
  /-- `F_WRITE_DURING_BUSY` (R147). -/
  writeDuringBusy : Bool
  /-- `F_RESET_IN_FLIGHT` (R162). -/
  resetInFlight : Bool
deriving DecidableEq, Repr

/-- The `status` of a bus response (R90). -/
inductive RespStatus where
  | ok
  | genericError
deriving DecidableEq, Repr

/-- A bus response (R90): `data` is empty for a write and for a rejected access, which returns none (R146). -/
structure Response where
  status : RespStatus
  data : List Byte
deriving DecidableEq, Repr

/-- The endpoint's verdict on one DMA request (R201, R205): every non-success status is `fail`. -/
inductive Answer where
  | success
  | fail
deriving DecidableEq, Repr

/-- An entry of the event record (R47). -/
inductive Event where
  /-- A DMA request with its direction, address, length and outcome. -/
  | dma (dir : Dir) (addr : Ptr) (len : Nat) (outcome : Answer)
  /-- A change of `irq_line`: rising if true, falling if false. -/
  | edge (rising : Bool)
  /-- The warning of a read (R126) or write (R127) of an undefined address. -/
  | warnUndefined (dir : Dir) (addr : Ptr)
  /-- The warning of a write to the read-only STATUS (R124). -/
  | warnReadOnly
deriving DecidableEq, Repr

/-- Who takes a step, and with what (R70; log 2). -/
inductive Turn where
  /-- The host issues a bus transaction. -/
  | bus (t : Transaction)
  /-- The engine takes its enabled step, or stays blocked if it has none. -/
  | engine
  /-- The host changes bytes of its own memory, all at one instant (R63, R70). -/
  | hostMem (changes : List (Ptr × Byte))
  /-- Power-on (R300). -/
  | powerOn
deriving DecidableEq, Repr

/-- External memory (R45, R63) as a list of (address, byte) in canonical form (`Memory.wf`). -/
abbrev Memory := List Host.Cell

/-- Everything the spec gives the machine, and the environment's side of a step. -/
structure State where
  /-- The Register File. -/
  regs : RegFile
  /-- `irq_line` (R30). -/
  irqLine : Bool
  /-- `eng.*` (R40, R43). -/
  eng : Engine
  /-- The Compute Job latch `job` (R41). -/
  job : Job
  /-- `wake_pending` (R42). -/
  wakePending : Bool
  /-- The model-level marks (R46). -/
  marks : Marks
  /-- The response of the most recent bus transaction (R90; the model's own field, log 17). -/
  resp : Option Response
  /-- The event record, oldest first (R47). No rule of the device reads it. -/
  log : List Event
  /-- External memory (R45), a component of the environment that DMA and the host read and write. -/
  mem : Memory
  /-- The coming turns, next first (the model's own field: the order R70 leaves free, log 2). -/
  schedule : List Turn
  /-- The endpoint's verdicts on the coming DMA requests, next first (the model's own field: the free input
  `EndpointAnswers` of R205, log 7). Empty: the endpoint has not answered yet (R206). -/
  answers : List Answer
  /-- The index of the next free value (the model's own field, log 10). -/
  free : Nat
deriving DecidableEq, Repr

/-- Why a step stops. `step` raises neither; `exec` raises them on an operation that no agent can take in that state. -/
inductive Fault where
  /-- Raised by the seven ENG operations when their guard (R91, R221 to R228) does not hold: the spec enables no such
  step, so it gives it no effect. Safe: the model stops where the hardware takes no step. -/
  | notEnabled (mnemonic : String)
  /-- Raised by ENG.RD_A, ENG.RD_B and ENG.WR_C when the endpoint has not answered the request: "the engine step never
  being taken" (R206). Safe: the model stops where the hardware waits. -/
  | noResponse (mnemonic : String)
deriving DecidableEq, Repr

/-- Why an operation has no meaning. -/
inductive Refusal where
  /-- Raised by an arm of `exec` whose instruction has no meaning yet. Safe: nothing can be proved of it. -/
  | notModelled (mnemonic : String)
deriving DecidableEq, Repr

/-- The machine right after power-on (R48, R300). The job latch, `eng.job` and the buffers hold no specified value there;
zeros and empty buffers are the model's (DESIGN CHOICE, unsafe, log 8, 9). External memory lists nothing (log 5), no turn
and no verdict is pending (log 2, 7). -/
def State.reset : State where
  regs := RegFile.powerOn
  irqLine := false
  eng := { phase := .wait, job := ⟨0, 0, 0, 0⟩, bufA := [], bufB := [], bufC := [] }
  job := ⟨0, 0, 0, 0⟩
  wakePending := false
  marks := { writeDuringBusy := false, resetInFlight := false }
  resp := none
  log := []
  mem := []
  schedule := []
  answers := []
  free := 0

end Sys2Proof.Machine
end

