-- ==== Sys2Proof/Machine/Ops.lean ====
section
/-!
DEFINITION. The named operations over registers, hidden state and external memory, on which every meaning is built; the
actions the spec shares between operations (IRQ.EVAL, CTL.RESET, CTL.START, the error reports); the DMA primitives; and
the choice of the next operation.

The device takes no traps (60_exceptions R260, R273): where a processor enters an exception, it reports an error
(`rejectLength`, `failJob`, `reportFailure`) or drives its line (`irqEval`). There is no return operation (R274).
-/

namespace Sys2Proof.Machine

open Sys2Proof

/-! ## One update per piece of state -/

/-- `x[CONTROL] <- v` (R9). -/
def State.setControl (s : State) (v : Word) : State := { s with regs := { s.regs with control := v } }

/-- `x[STATUS] <- v` (R9): always the whole register (R23, decision D24). -/
def State.setStatus (s : State) (v : Word) : State := { s with regs := { s.regs with status := v } }

/-- `x[DIM_N] <- v` (R9). -/
def State.setDimN (s : State) (v : Word) : State := { s with regs := { s.regs with dimN := v } }

/-- `x[MATRIX_A_PTR] <- v` (R9). -/
def State.setAPtr (s : State) (v : Ptr) : State := { s with regs := { s.regs with aPtr := v } }

/-- `x[MATRIX_B_PTR] <- v` (R9). -/
def State.setBPtr (s : State) (v : Ptr) : State := { s with regs := { s.regs with bPtr := v } }

/-- `x[MATRIX_C_PTR] <- v` (R9). -/
def State.setCPtr (s : State) (v : Ptr) : State := { s with regs := { s.regs with cPtr := v } }

/-- `x[INT_STATUS] <- v` (R9). -/
def State.setIntStatus (s : State) (v : Word) : State := { s with regs := { s.regs with intStatus := v } }

/-- `x[INT_ENABLE] <- v` (R9). -/
def State.setIntEnable (s : State) (v : Word) : State := { s with regs := { s.regs with intEnable := v } }

/-- All eight registers at their power-on values (R48). -/
def State.resetRegs (s : State) : State := { s with regs := RegFile.powerOn }

/-- `irq_line <- v`. -/
def State.setIrqLine (s : State) (v : Bool) : State := { s with irqLine := v }

/-- `eng.phase <- p` (R9). -/
def State.setPhase (s : State) (p : Phase) : State := { s with eng := { s.eng with phase := p } }

/-- `eng.job <- j`. -/
def State.setEngJob (s : State) (j : Job) : State := { s with eng := { s.eng with job := j } }

/-- Fills `eng.bufA`. -/
def State.setBufA (s : State) (b : List Word) : State := { s with eng := { s.eng with bufA := b } }

/-- Fills `eng.bufB`. -/
def State.setBufB (s : State) (b : List Word) : State := { s with eng := { s.eng with bufB := b } }

/-- Fills `eng.bufC`. -/
def State.setBufC (s : State) (b : List Word) : State := { s with eng := { s.eng with bufC := b } }

/-- Writes the job latch (R41). -/
def State.setJob (s : State) (j : Job) : State := { s with job := j }

/-- `wake_pending <- b` (R42). -/
def State.setWake (s : State) (b : Bool) : State := { s with wakePending := b }

/-- Sets the model-level marks (R46). -/
def State.setMarks (s : State) (m : Marks) : State := { s with marks := m }

/-- `respond(status, data)` (R9). -/
def State.respond (s : State) (st : RespStatus) (data : List Byte) : State := { s with resp := some ⟨st, data⟩ }

/-- Appends an entry to the event record (R47). -/
def State.record (s : State) (e : Event) : State := { s with log := s.log ++ [e] }

/-- Replaces external memory. -/
def State.setMem (s : State) (m : Memory) : State := { s with mem := m }

/-- Replaces the coming turns. -/
def State.setSchedule (s : State) (ts : List Turn) : State := { s with schedule := ts }

/-- Replaces the endpoint's coming verdicts. -/
def State.setAnswers (s : State) (as : List Answer) : State := { s with answers := as }

/-- Moves past `k` free values (log 10). -/
def State.useFree (s : State) (k : Nat) : State := { s with free := s.free + k }

/-! ## Predicates the rules read -/

/-- `JobInFlight` (R9, R44). -/
def State.jobInFlight (s : State) : Bool := s.wakePending || s.eng.phase != .wait

/-- The sticky mark of R147, recorded by a write of a job register while a job is in flight. -/
def noteJobWrite (s : State) : State :=
  if s.jobInFlight then s.setMarks { s.marks with writeDuringBusy := true } else s

/-- The sticky mark of R162, recorded by a RESET action while a job is in flight. -/
def noteReset (s : State) : State :=
  if s.jobInFlight then s.setMarks { s.marks with resetInFlight := true } else s

/-! ## The shared actions -/

/-- The value the Interrupt Controller derives: `(INT_STATUS & INT_ENABLE) != 0` (R180). -/
def irqValue (r : RegFile) : Bool := (r.intStatus &&& r.intEnable) != 0

/-- IRQ.EVAL (R182): records an edge if the line changes, and drives the line. -/
def irqEval (s : State) : State :=
  let new := irqValue s.regs
  (if new != s.irqLine then s.record (.edge new) else s).setIrqLine new

/-- CTL.RESET (R162): the registers and the line, and nothing else. -/
def ctlReset (s : State) : State := irqEval (noteReset s).resetRegs

/-- The job the registers describe (R41, R163). -/
def capturedJob (r : RegFile) : Job := ⟨r.dimN, r.aPtr, r.bPtr, r.cPtr⟩

/-- CTL.START (R163) where STATUS.IDLE is 1, else nothing (R164: "START while BUSY is a no-op"). -/
def ctlStart (s : State) : State :=
  if s.regs.status.getLsbD 0 then
    ((s.setStatus 0x00000002).setJob (capturedJob s.regs)).setWake true
  else s

/-- `raise BadAccessWidth` (R146, R261): the rejection, with no data and no other change. -/
def rejectLength (s : State) : State := s.respond .genericError []

/-- `raise InvalidDimension`, `raise DmaFailure` (R264, R265): the job is aborted, its report is left to ENG.ERROR. -/
def failJob (s : State) : State := s.setPhase .fail

/-- A free value for a job (log 10). -/
def freeJob (k : Nat) : Job := ⟨Config.freeWord k, Config.freePtr k, Config.freePtr (k + 1), Config.freePtr (k + 2)⟩

/-- The engine returns to `P_WAIT`. Its working state is "valid only while `eng.phase != P_WAIT`" (R43), so what
`eng.job` and the buffers hold from here on is a free value (log 11). -/
def toWait (s : State) : State :=
  { s with
    eng := {
      phase := .wait
      job := freeJob s.free
      bufA := Config.freeBuffer s.free
      bufB := Config.freeBuffer (s.free + 1)
      bufC := Config.freeBuffer (s.free + 2) }
    free := s.free + 3 }

/-- The report of a failed job (R228): STATUS only; INT_STATUS and the line stay. -/
def reportFailure (s : State) : State := toWait (s.setStatus 0x00000009)

/-- The report of a successful job (R227). -/
def reportSuccess (s : State) : State :=
  toWait (irqEval ((s.setStatus 0x00000005).setIntStatus (s.regs.intStatus ||| 0x00000001)))

/-- POR (R300): the power-on column of R48. The job latch is emptied and the working state is unspecified, so both are
free values (log 10); the environment's side and the event record stay (log 21). -/
def powerOn (s : State) : State :=
  let t := (toWait (s.resetRegs.setWake false)).setMarks ⟨false, false⟩
  irqEval ((t.setJob (freeJob t.free)).useFree 3)

/-! ## External memory -/

/-- What an address that memory does not list reads as (DESIGN CHOICE, log 5: the contents are the environment's). -/
def unlistedByte : Byte := 0

/-- The byte at an external address. -/
def readByte : Memory → Nat → Byte
  | [], _ => unlistedByte
  | (k, v) :: m, a => if k = a then v else readByte m a

/-- Writes a byte, keeping the list sorted and free of bytes equal to `unlistedByte`. -/
def storeByte : Memory → Nat → Byte → Memory
  | [], a, b => if b = unlistedByte then [] else [(a, b)]
  | (k, v) :: m, a, b =>
    if k < a then (k, v) :: storeByte m a b
    else if k = a then (if b = unlistedByte then m else (a, b) :: m)
    else (if b = unlistedByte then (k, v) :: m else (a, b) :: (k, v) :: m)

/-- The canonical form: addresses strictly rising and below 2^64, no byte equal to `unlistedByte`. -/
def Memory.wf (m : Memory) : Bool :=
  decide (m.Pairwise (fun x y => x.1 < y.1)) && m.all (fun x => decide (x.1 < 2 ^ 64) && x.2 != unlistedByte)

/-- The external address of byte `i` of a request at `addr`: `addr + i`, and past 2^64 whatever the endpoint makes of
it, none if it makes nothing of it (R207; log 6). `k` is the request's number. -/
def extAddr (k : Nat) (addr : Ptr) (i : Nat) : Option Nat :=
  if addr.toNat + i < 2 ^ 64 then some (addr.toNat + i)
  else (Config.pastTop k (addr.toNat + i)).map BitVec.toNat

/-- Byte `i` of a read at `addr` (R202, R209). -/
def readAt (k : Nat) (m : Memory) (addr : Ptr) (i : Nat) : Byte :=
  match extAddr k addr i with
  | some a => readByte m a
  | none => Config.openByte k (addr.toNat + i)

/-- The `n` bytes of a read at `addr`, all at one instant (R202). -/
def readBytes (k : Nat) (m : Memory) (addr : Ptr) (n : Nat) : List Byte := (List.range n).map (readAt k m addr)

/-- Writes bytes at `addr + i`, `addr + i + 1`, … (R203). -/
def writeFrom (k : Nat) (m : Memory) (addr : Ptr) : Nat → List Byte → Memory
  | _, [] => m
  | i, b :: bs =>
    let m' := match extAddr k addr i with
      | some a => storeByte m a b
      | none => m
    writeFrom k m' addr (i + 1) bs

/-- The bytes of a write at `addr`, all at one instant (R203). -/
def writeBytes (k : Nat) (m : Memory) (addr : Ptr) (bs : List Byte) : Memory := writeFrom k m addr 0 bs

/-- A change the host makes to its own memory in one step (R63, R70). -/
def hostChange (m : Memory) : List (Ptr × Byte) → Memory
  | [] => m
  | (a, b) :: cs => hostChange (storeByte m a.toNat b) cs

/-! ## The DMA primitives (43_dma) -/

/-- The length of a job's requests: `n*n*4` bytes (R201, R210). -/
def dmaLen (n : Word) : Nat := n.toNat * n.toNat * Config.elemBytes

/-- `MemRead(addr, n)` (R202) with the endpoint's verdict taken from `answers` (R205): `none` where it has not answered,
else the bytes (`none` inside for `fail`) and the state with the verdict used and the request recorded. -/
def memRead (s : State) (addr : Ptr) (n : Nat) : Option (Option (List Byte) × State) :=
  match s.answers with
  | [] => none
  | .success :: rest =>
    some (some (readBytes s.free s.mem addr n),
      ((s.setAnswers rest).useFree 1).record (.dma .read addr n .success))
  | .fail :: rest => some (none, ((s.setAnswers rest).useFree 1).record (.dma .read addr n .fail))

/-- `MemWrite(addr, n, v)` (R203), `n` being the number of bytes of `v`: `none` where the endpoint has not answered, else
whether it succeeded and the state after, in which a failed write has left external memory unchanged. -/
def memWrite (s : State) (addr : Ptr) (v : List Byte) : Option (Bool × State) :=
  match s.answers with
  | [] => none
  | .success :: rest =>
    some (true, (((s.setMem (writeBytes s.free s.mem addr v)).setAnswers rest).useFree 1).record
      (.dma .write addr v.length .success))
  | .fail :: rest => some (false, ((s.setAnswers rest).useFree 1).record (.dma .write addr v.length .fail))

/-! ## Which operation is next (R70, R91) -/

/-- The engine operation that is enabled (R40, R91): chosen by the phase, by `wake_pending` in `P_WAIT`, and only once
the endpoint has answered where the operation waits for it (R206). -/
def engineOp (s : State) : Option Instr :=
  match s.eng.phase with
  | .wait => if s.wakePending then some .engStart else none
  | .rdA => if s.answers.isEmpty then none else some .engRdA
  | .rdB => if s.answers.isEmpty then none else some .engRdB
  | .compute => some .engCompute
  | .wrC => if s.answers.isEmpty then none else some .engWrC
  | .fin => some .engDone
  | .fail => some .engError

/-- What a step does. -/
inductive Action where
  /-- An operation of the device. -/
  | run (i : Instr)
  /-- A change the host makes to its own memory. -/
  | memory (changes : List (Ptr × Byte))
  /-- Nothing: the engine is blocked (R206, R285) and the host does nothing. -/
  | idle
deriving DecidableEq, Repr

/-- The engine's enabled operation, if it has one. -/
def engineAction (s : State) : Action :=
  match engineOp s with
  | some i => .run i
  | none => .idle

/-- The next action, and the state with the turn taken off the schedule (R70). With no turn listed the host does
nothing, so only the engine can move (log 2). -/
def fetch (s : State) : Action × State :=
  match s.schedule with
  | [] => (engineAction s, s)
  | .bus t :: ts => (.run (decode t), s.setSchedule ts)
  | .engine :: ts => (engineAction s, s.setSchedule ts)
  | .hostMem cs :: ts => (.memory cs, s.setSchedule ts)
  | .powerOn :: ts => (.run .por, s.setSchedule ts)

/-- Puts a bus transaction at the front of the schedule. -/
def placeTransaction (s : State) (t : Transaction) : State := s.setSchedule (.bus t :: s.schedule)

end Sys2Proof.Machine
end

