-- ==== Sys2Proof/Machine/Flags.lean ====
section
/-!
DEFINITION. The flags of the device: the four STATUS bits (10_state R22), the pending bit of INT_STATUS (R28), the bits
of a CONTROL write (R21), and the write-1-to-clear rule (R28, 42_interrupt R184). The device has no condition codes (R32).
-/

namespace Sys2Proof.Machine

open Sys2Proof

/-- STATUS.IDLE (R22): bit 0. -/
def statusIdle (v : Word) : Bool := v.getLsbD 0

/-- STATUS.BUSY (R22): bit 1. -/
def statusBusy (v : Word) : Bool := v.getLsbD 1

/-- STATUS.DONE (R22): bit 2. -/
def statusDone (v : Word) : Bool := v.getLsbD 2

/-- STATUS.ERROR (R22): bit 3. -/
def statusError (v : Word) : Bool := v.getLsbD 3

/-- CONTROL.START (R21): bit 0 of the written value. -/
def controlStart (v : Word) : Bool := v.getLsbD 0

/-- CONTROL.RESET (R21): bit 1 of the written value. -/
def controlReset (v : Word) : Bool := v.getLsbD 1

/-- INT_STATUS[0], DONE_PENDING (R28). -/
def donePending (v : Word) : Bool := v.getLsbD 0

/-- Write-1-to-clear: `INT_STATUS & ~write_value` (R28, R184). -/
def writeOneToClear (old v : Word) : Word := old &&& ~~~v

/-- The dimension test of ENG.START (R221): an unsigned comparison over 32 bits. -/
def dimensionInvalid (n : Word) : Bool := n.toNat == 0 || Config.nMax < n.toNat

end Sys2Proof.Machine
end

