-- ==== Sys2Proof/Machine/Operands.lean ====
section
/-!
DEFINITION. The operand forms: data assembly of reads and writes (30_encoding R92), the halves of a pointer register
(R95), and the layout of a matrix in a DMA transfer (43_dma R209, 20_memory R62).
-/

namespace Sys2Proof.Machine

open Sys2Proof

/-- `wdata` of R92: the value a write gives a 32-bit register. With length 8, bytes 4 to 7 are ignored (decision D2). -/
def wdata : WriteData → Word
  | .four v => v
  | .eight v => v.setWidth 32

/-- The data of a read of a 32-bit register: `bytes_le(zext_64(v), len)` (R92, R121). -/
def readData (v : Word) (len : AccessLen) : List Byte := bytesLe (v.setWidth 64).toNat len.bytes

/-- The data of a whole read of a pointer register (R128). -/
def readPtr (p : Ptr) : List Byte := bytesLe p.toNat 8

/-- The low half of a pointer register (R95). -/
def loHalf (p : Ptr) : Word := p.setWidth 32

/-- The high half of a pointer register (R95). -/
def hiHalf (p : Ptr) : Word := (p >>> 32).setWidth 32

/-- `{P[63:32], v}` (R132): the low half replaced, the other half kept. -/
def withLo (p : Ptr) (v : Word) : Ptr := hiHalf p ++ v

/-- `{v, P[31:0]}` (R133): the high half replaced, the other half kept. -/
def withHi (p : Ptr) (v : Word) : Ptr := v ++ loHalf p

/-- The data of a 4-byte read of a half. -/
def readHalf (v : Word) : List Byte := bytesLe v.toNat 4

/-- The data of a read of an undefined address (R126): the sentinel of its length. -/
def sentinelData : AccessLen → List Byte
  | .four => bytesLe Config.sentinel32.toNat 4
  | .eight => bytesLe Config.sentinel64.toNat 8

/-- The elements of a transferred byte sequence: element `e` is `le32` of bytes `4e` to `4e + 3` (R209, R222). -/
def elemsOfBytes : List Byte → List Word
  | b0 :: b1 :: b2 :: b3 :: bs => le32 [b0, b1, b2, b3] :: elemsOfBytes bs
  | _ => []

/-- The bytes of a buffer: `bytes_le(bit pattern, 4)` of each element in order (R226). -/
def bytesOfElems (es : List Word) : List Byte := es.flatMap fun e => bytesLe e.toNat 4

/-- Element `e` of a buffer; a free value where the buffer has no such element, which no job meets (R43; log 13). -/
def elemAt (buf : List Word) (e : Nat) : Word := buf.getD e (Config.freeWord e)

end Sys2Proof.Machine
end

