-- ==== Sys2Proof/Machine/Control.lean ====
section
/-!
DEFINITION. The meanings of the CONTROL write and of the two actions it invokes (41_control R160 to R166).
-/

namespace Sys2Proof.Machine

open Sys2Proof

/-- The action a written value invokes (R160, R161): RESET is evaluated first and excludes START. -/
def controlAction (v : Word) (s : State) : State :=
  if controlReset v then ctlReset s else if controlStart v then ctlStart s else s

/-- WR.CONTROL (R161): stores the value, then its action, then `OK` in every case. -/
def execWrControl (data : WriteData) (s : State) : Host.Outcome State Fault Refusal :=
  .next ((controlAction (wdata data) (s.setControl (wdata data))).respond .ok [])

/-- CTL.RESET (R162), the action by itself. `step` reaches it only through WR.CONTROL (R91, log 20). -/
def execCtlReset (s : State) : Host.Outcome State Fault Refusal := .next (ctlReset s)

/-- CTL.START (R163, R164), the action by itself, which "acts only if STATUS[0] = 1" (opcode_table.json). `step` reaches
it only through WR.CONTROL (R91, log 20). -/
def execCtlStart (s : State) : Host.Outcome State Fault Refusal := .next (ctlStart s)

end Sys2Proof.Machine
end

