-- ==== Sys2Proof/Machine/F32.lean ====
section
/-!
DEFINITION. The arithmetic of ENG.COMPUTE (44_compute_engine R224, R225): binary32 multiplication and addition, each
rounded once to nearest, ties to even, subnormals kept, overflow to infinity, a NaN result being some NaN. The format and
the rounding are general knowledge of the spec (93 G1, G2; PRESUMED, log 14); sign and payload of a NaN are free (log 15).

A finite magnitude is an exact natural number of units of 2^-300, in which every binary32 value, every product of two
and every sum of two is whole.
-/

namespace Sys2Proof.Machine

open Sys2Proof

/-- The sign bit (R225): bit 31. -/
def f32Sign (w : Word) : Bool := w.getLsbD 31

/-- The exponent field (R225): bits [30:23]. -/
def f32Exp (w : Word) : Nat := (w.toNat / 2 ^ 23) % 2 ^ 8

/-- The fraction field (R225): bits [22:0]. -/
def f32Frac (w : Word) : Nat := w.toNat % 2 ^ 23

/-- A NaN: exponent all ones, fraction not zero. -/
def f32IsNaN (w : Word) : Bool := f32Exp w == 255 && f32Frac w != 0

/-- An infinity: exponent all ones, fraction zero. -/
def f32IsInf (w : Word) : Bool := f32Exp w == 255 && f32Frac w == 0

/-- A zero of either sign. -/
def f32IsZero (w : Word) : Bool := f32Exp w == 0 && f32Frac w == 0

/-- The significand of a finite value, its leading one included unless it is subnormal. -/
def f32Mant (w : Word) : Nat := if f32Exp w = 0 then f32Frac w else 2 ^ 23 + f32Frac w

/-- The exponent of a finite value's significand: the value is `f32Mant w * 2^(f32Scale w - 150)`. -/
def f32Scale (w : Word) : Nat := if f32Exp w = 0 then 1 else f32Exp w

/-- The magnitude of a finite value in units of 2^-300. -/
def f32Units (w : Word) : Nat := f32Mant w * 2 ^ (f32Scale w + 150)

/-- The bits of infinity without the sign. -/
def f32InfBits : Nat := 0x7F800000

/-- Quotient of a natural number by 2^l, rounded to nearest, ties to even. -/
def roundShift (x l : Nat) : Nat :=
  let q := x / 2 ^ l
  let r := x % 2 ^ l
  if 2 ^ l < 2 * r ∨ (2 ^ l = 2 * r ∧ q % 2 = 1) then q + 1 else q

/-- The biased exponent at which a magnitude in units of 2^-300 is rounded: the one that leaves 24 significant bits, and
at least 1, where subnormals are. -/
def roundScale (units : Nat) : Nat := max 1 (Nat.log2 units - 173)

/-- The bits, without the sign, of a magnitude in units of 2^-300 rounded to binary32 (R225). A carry out of the
significand moves into the exponent field; what reaches the top is infinity. -/
def roundBits (units : Nat) : Nat :=
  min f32InfBits ((roundScale units - 1) * 2 ^ 23 + roundShift units (roundScale units + 150))

/-- A word from its sign and the 31 bits below it. -/
def f32Pack (sign : Bool) (bits : Nat) : Word := BitVec.ofNat 32 ((if sign then 2 ^ 31 else 0) + bits)

/-- A NaN of a given sign and fraction (the fraction field is one more than the index, so never zero). -/
def f32NaN (p : Bool × Fin 8388607) : Word := f32Pack p.1 (f32InfBits + (p.2.val + 1))

/-- A finite value as a signed number of units of 2^-300. -/
def f32Value (w : Word) : Int := if f32Sign w then -(f32Units w : Int) else f32Units w

/-- `F32.mul` (R225). -/
def f32Mul (a b : Word) : Word :=
  let sign := f32Sign a != f32Sign b
  if f32IsNaN a || f32IsNaN b then f32NaN (Config.nanOfMul a b)
  else if f32IsInf a || f32IsInf b then
    if f32IsZero a || f32IsZero b then f32NaN (Config.nanOfMul a b) else f32Pack sign f32InfBits
  else f32Pack sign (roundBits (f32Mant a * f32Mant b * 2 ^ (f32Scale a + f32Scale b)))

/-- The sum of two finite values (R225): exact cancellation gives +0, and -0 only comes of two negative zeros. -/
def f32AddFinite (a b : Word) : Word :=
  let sum := f32Value a + f32Value b
  if sum = 0 then f32Pack (f32Sign a && f32Sign b) 0
  else f32Pack (decide (sum < 0)) (roundBits sum.natAbs)

/-- `F32.add` (R225). -/
def f32Add (a b : Word) : Word :=
  if f32IsNaN a || f32IsNaN b then f32NaN (Config.nanOfAdd a b)
  else if f32IsInf a then
    if f32IsInf b && f32Sign a != f32Sign b then f32NaN (Config.nanOfAdd a b) else a
  else if f32IsInf b then b
  else f32AddFinite a b

/-- The inner loop of R224: element `(i, j)` of the product, `k` ascending from `+0.0`, the product rounded before the
add. -/
def dotProduct (n : Nat) (bufA bufB : List Word) (i j : Nat) : Word :=
  (List.range n).foldl (fun acc k => f32Add acc (f32Mul (elemAt bufA (i * n + k)) (elemAt bufB (k * n + j)))) 0

/-- The loops of R224: the product in row-major order. -/
def matMul (n : Nat) (bufA bufB : List Word) : List Word :=
  (List.range n).flatMap fun i => (List.range n).map fun j => dotProduct n bufA bufB i j

/-- `MatMulRef(n, a, b)` (R233): the product of two byte sequences. -/
def matMulRef (n : Nat) (a b : List Byte) : List Byte := bytesOfElems (matMul n (elemsOfBytes a) (elemsOfBytes b))

end Sys2Proof.Machine
end

