-- ==== Sys2Proof/Machine/Engine.lean ====
section
/-!
DEFINITION. The meanings of the seven engine operations (44_compute_engine R220 to R234). Each has a guard (R91): where it
does not hold, no such step exists and the meaning stops under the name `notEnabled` (log 19).
-/

namespace Sys2Proof.Machine

open Sys2Proof

/-- ENG.START (R221): wake, take the job, check the dimension. The new job's buffers hold no contents yet (R43). -/
def execEngStart (s : State) : Host.Outcome State Fault Refusal :=
  if s.eng.phase = .wait ∧ s.wakePending = true then
    let t := (s.setWake false).setEngJob s.job
    .next (if dimensionInvalid s.job.n then failJob t else t.setPhase .rdA)
  else .fault (.notEnabled "ENG.START")

/-- ENG.RD_A (R222): one request for the whole matrix. After a failed read `eng.bufA` is unspecified: a free value
(log 12). -/
def execEngRdA (s : State) : Host.Outcome State Fault Refusal :=
  if s.eng.phase = .rdA then
    match memRead s s.eng.job.a (dmaLen s.eng.job.n) with
    | none => .fault (.noResponse "ENG.RD_A")
    | some (none, t) => .next (failJob ((t.setBufA (Config.freeBuffer t.free)).useFree 1))
    | some (some bytes, t) => .next ((t.setBufA (elemsOfBytes bytes)).setPhase .rdB)
  else .fault (.notEnabled "ENG.RD_A")

/-- ENG.RD_B (R223), as ENG.RD_A for operand B (decision D18 for the buffer after a failed read; log 12). -/
def execEngRdB (s : State) : Host.Outcome State Fault Refusal :=
  if s.eng.phase = .rdB then
    match memRead s s.eng.job.b (dmaLen s.eng.job.n) with
    | none => .fault (.noResponse "ENG.RD_B")
    | some (none, t) => .next (failJob ((t.setBufB (Config.freeBuffer t.free)).useFree 1))
    | some (some bytes, t) => .next ((t.setBufB (elemsOfBytes bytes)).setPhase .compute)
  else .fault (.notEnabled "ENG.RD_B")

/-- ENG.COMPUTE (R224): the whole product in one step. -/
def execEngCompute (s : State) : Host.Outcome State Fault Refusal :=
  if s.eng.phase = .compute then
    .next ((s.setBufC (matMul s.eng.job.n.toNat s.eng.bufA s.eng.bufB)).setPhase .wrC)
  else .fault (.notEnabled "ENG.COMPUTE")

/-- ENG.WR_C (R226): one write of the whole result; STATUS is still BUSY after it. -/
def execEngWrC (s : State) : Host.Outcome State Fault Refusal :=
  if s.eng.phase = .wrC then
    match memWrite s s.eng.job.c (bytesOfElems s.eng.bufC) with
    | none => .fault (.noResponse "ENG.WR_C")
    | some (false, t) => .next (failJob t)
    | some (true, t) => .next (t.setPhase .fin)
  else .fault (.notEnabled "ENG.WR_C")

/-- ENG.DONE (R227): STATUS, the pending bit and the line in one step. -/
def execEngDone (s : State) : Host.Outcome State Fault Refusal :=
  if s.eng.phase = .fin then .next (reportSuccess s) else .fault (.notEnabled "ENG.DONE")

/-- ENG.ERROR (R228): STATUS only. -/
def execEngError (s : State) : Host.Outcome State Fault Refusal :=
  if s.eng.phase = .fail then .next (reportFailure s) else .fault (.notEnabled "ENG.ERROR")

end Sys2Proof.Machine
end

