-- ==== Sys2Proof/Machine/Interrupt.lean ====
section
/-!
DEFINITION. The meanings of the accesses to INT_STATUS and INT_ENABLE and of the line's re-evaluation (42_interrupt R180
to R188). Each write re-evaluates the line as its last action on the registers (R182).
-/

namespace Sys2Proof.Machine

open Sys2Proof

/-- RD.INT_STATUS (R183): the read does not clear the pending bit. -/
def execRdIntStatus (len : AccessLen) (s : State) : Host.Outcome State Fault Refusal :=
  .next (s.respond .ok (readData s.regs.intStatus len))

/-- WR.INT_STATUS (R184): write-1-to-clear. -/
def execWrIntStatus (data : WriteData) (s : State) : Host.Outcome State Fault Refusal :=
  .next ((irqEval (s.setIntStatus (writeOneToClear s.regs.intStatus (wdata data)))).respond .ok [])

/-- RD.INT_ENABLE (R185): all 32 stored bits. -/
def execRdIntEnable (len : AccessLen) (s : State) : Host.Outcome State Fault Refusal :=
  .next (s.respond .ok (readData s.regs.intEnable len))

/-- WR.INT_ENABLE (R186): all 32 bits are stored. -/
def execWrIntEnable (data : WriteData) (s : State) : Host.Outcome State Fault Refusal :=
  .next ((irqEval (s.setIntEnable (wdata data))).respond .ok [])

/-- IRQ.EVAL (R182), the sub-operation by itself. `step` reaches it only through the operations that invoke it (log 20). -/
def execIrqEval (s : State) : Host.Outcome State Fault Refusal := .next (irqEval s)

end Sys2Proof.Machine
end

