-- ==== Sys2Proof/Machine/Power.lean ====
section
/-!
DEFINITION. The meaning of the power-on event (70_reset_and_hazards R300).
-/

namespace Sys2Proof.Machine

open Sys2Proof

/-- POR (R300): everything the device holds at its power-on value; external memory is not affected. -/
def execPor (s : State) : Host.Outcome State Fault Refusal := .next (powerOn s)

end Sys2Proof.Machine
end

