-- ==== Sys2Proof/Machine/RegisterAccess.lean ====
section
/-!
DEFINITION. The meanings of the register reads and the plain register writes (40_register_access R120 to R148): one
definition per operation. A write of DIM_N or of a pointer first records the mark of R147.
-/

namespace Sys2Proof.Machine

open Sys2Proof

/-- ACC.BADLEN (R146): rejected with GENERIC_ERROR, no data and no state change, whatever the transaction holds. -/
def execAccBadlen (_t : Transaction) (s : State) : Host.Outcome State Fault Refusal := .next (rejectLength s)

/-- RD.CONTROL (R121). -/
def execRdControl (len : AccessLen) (s : State) : Host.Outcome State Fault Refusal :=
  .next (s.respond .ok (readData s.regs.control len))

/-- RD.STATUS (R122). -/
def execRdStatus (len : AccessLen) (s : State) : Host.Outcome State Fault Refusal :=
  .next (s.respond .ok (readData s.regs.status len))

/-- WR.STATUS (R124): a warning, `OK`, and no state change. -/
def execWrStatus (_data : WriteData) (s : State) : Host.Outcome State Fault Refusal :=
  .next ((s.record .warnReadOnly).respond .ok [])

/-- RD.DIM_N (R123). -/
def execRdDimN (len : AccessLen) (s : State) : Host.Outcome State Fault Refusal :=
  .next (s.respond .ok (readData s.regs.dimN len))

/-- WR.DIM_N (R125): every value is stored. -/
def execWrDimN (data : WriteData) (s : State) : Host.Outcome State Fault Refusal :=
  .next (((noteJobWrite s).setDimN (wdata data)).respond .ok [])

/-- RD.UNDEF (R126): a warning and the sentinel of the length. -/
def execRdUndef (addr : Ptr) (len : AccessLen) (s : State) : Host.Outcome State Fault Refusal :=
  .next ((s.record (.warnUndefined .read addr)).respond .ok (sentinelData len))

/-- WR.UNDEF (R127): a warning, `OK`, and no state change. -/
def execWrUndef (addr : Ptr) (_data : WriteData) (s : State) : Host.Outcome State Fault Refusal :=
  .next ((s.record (.warnUndefined .write addr)).respond .ok [])

/-- RD.A_PTR (R128). -/
def execRdAPtr (s : State) : Host.Outcome State Fault Refusal := .next (s.respond .ok (readPtr s.regs.aPtr))

/-- RD.A_PTR_LO (R129). -/
def execRdAPtrLo (s : State) : Host.Outcome State Fault Refusal :=
  .next (s.respond .ok (readHalf (loHalf s.regs.aPtr)))

/-- RD.A_PTR_HI (R130). -/
def execRdAPtrHi (s : State) : Host.Outcome State Fault Refusal :=
  .next (s.respond .ok (readHalf (hiHalf s.regs.aPtr)))

/-- WR.A_PTR (R131): the whole register. -/
def execWrAPtr (v : Ptr) (s : State) : Host.Outcome State Fault Refusal :=
  .next (((noteJobWrite s).setAPtr v).respond .ok [])

/-- WR.A_PTR_LO (R132): the low half, the high half kept. -/
def execWrAPtrLo (v : Word) (s : State) : Host.Outcome State Fault Refusal :=
  .next (((noteJobWrite s).setAPtr (withLo s.regs.aPtr v)).respond .ok [])

/-- WR.A_PTR_HI (R133): the high half, the low half kept. -/
def execWrAPtrHi (v : Word) (s : State) : Host.Outcome State Fault Refusal :=
  .next (((noteJobWrite s).setAPtr (withHi s.regs.aPtr v)).respond .ok [])

/-- RD.B_PTR (R134). -/
def execRdBPtr (s : State) : Host.Outcome State Fault Refusal := .next (s.respond .ok (readPtr s.regs.bPtr))

/-- RD.B_PTR_LO (R135). -/
def execRdBPtrLo (s : State) : Host.Outcome State Fault Refusal :=
  .next (s.respond .ok (readHalf (loHalf s.regs.bPtr)))

/-- RD.B_PTR_HI (R136). -/
def execRdBPtrHi (s : State) : Host.Outcome State Fault Refusal :=
  .next (s.respond .ok (readHalf (hiHalf s.regs.bPtr)))

/-- WR.B_PTR (R137): the whole register. -/
def execWrBPtr (v : Ptr) (s : State) : Host.Outcome State Fault Refusal :=
  .next (((noteJobWrite s).setBPtr v).respond .ok [])

/-- WR.B_PTR_LO (R138): the low half, the high half kept. -/
def execWrBPtrLo (v : Word) (s : State) : Host.Outcome State Fault Refusal :=
  .next (((noteJobWrite s).setBPtr (withLo s.regs.bPtr v)).respond .ok [])

/-- WR.B_PTR_HI (R139): the high half, the low half kept. -/
def execWrBPtrHi (v : Word) (s : State) : Host.Outcome State Fault Refusal :=
  .next (((noteJobWrite s).setBPtr (withHi s.regs.bPtr v)).respond .ok [])

/-- RD.C_PTR (R140). -/
def execRdCPtr (s : State) : Host.Outcome State Fault Refusal := .next (s.respond .ok (readPtr s.regs.cPtr))

/-- RD.C_PTR_LO (R141). -/
def execRdCPtrLo (s : State) : Host.Outcome State Fault Refusal :=
  .next (s.respond .ok (readHalf (loHalf s.regs.cPtr)))

/-- RD.C_PTR_HI (R142). -/
def execRdCPtrHi (s : State) : Host.Outcome State Fault Refusal :=
  .next (s.respond .ok (readHalf (hiHalf s.regs.cPtr)))

/-- WR.C_PTR (R143): the whole register. -/
def execWrCPtr (v : Ptr) (s : State) : Host.Outcome State Fault Refusal :=
  .next (((noteJobWrite s).setCPtr v).respond .ok [])

/-- WR.C_PTR_LO (R144): the low half, the high half kept. -/
def execWrCPtrLo (v : Word) (s : State) : Host.Outcome State Fault Refusal :=
  .next (((noteJobWrite s).setCPtr (withLo s.regs.cPtr v)).respond .ok [])

/-- WR.C_PTR_HI (R145): the high half, the low half kept. -/
def execWrCPtrHi (v : Word) (s : State) : Host.Outcome State Fault Refusal :=
  .next (((noteJobWrite s).setCPtr (withHi s.regs.cPtr v)).respond .ok [])

end Sys2Proof.Machine
end

