-- ==== Sys2Proof/Machine/Dispatch.lean ====
section
/-!
DEFINITION. The meaning of every operation: one arm per constructor of `Instr`, one definition per arm.
-/

namespace Sys2Proof.Machine

open Sys2Proof

def exec (i : Instr) (s : State) : Host.Outcome State Fault Refusal :=
  match i with
  | .accBadlen t => Sys2Proof.Machine.execAccBadlen t s
  | .rdControl len => Sys2Proof.Machine.execRdControl len s
  | .wrControl data => Sys2Proof.Machine.execWrControl data s
  | .rdStatus len => Sys2Proof.Machine.execRdStatus len s
  | .wrStatus data => Sys2Proof.Machine.execWrStatus data s
  | .rdDimN len => Sys2Proof.Machine.execRdDimN len s
  | .wrDimN data => Sys2Proof.Machine.execWrDimN data s
  | .rdAPtr => Sys2Proof.Machine.execRdAPtr s
  | .rdAPtrLo => Sys2Proof.Machine.execRdAPtrLo s
  | .rdAPtrHi => Sys2Proof.Machine.execRdAPtrHi s
  | .wrAPtr wdata64 => Sys2Proof.Machine.execWrAPtr wdata64 s
  | .wrAPtrLo wdata => Sys2Proof.Machine.execWrAPtrLo wdata s
  | .wrAPtrHi wdata => Sys2Proof.Machine.execWrAPtrHi wdata s
  | .rdBPtr => Sys2Proof.Machine.execRdBPtr s
  | .rdBPtrLo => Sys2Proof.Machine.execRdBPtrLo s
  | .rdBPtrHi => Sys2Proof.Machine.execRdBPtrHi s
  | .wrBPtr wdata64 => Sys2Proof.Machine.execWrBPtr wdata64 s
  | .wrBPtrLo wdata => Sys2Proof.Machine.execWrBPtrLo wdata s
  | .wrBPtrHi wdata => Sys2Proof.Machine.execWrBPtrHi wdata s
  | .rdCPtr => Sys2Proof.Machine.execRdCPtr s
  | .rdCPtrLo => Sys2Proof.Machine.execRdCPtrLo s
  | .rdCPtrHi => Sys2Proof.Machine.execRdCPtrHi s
  | .wrCPtr wdata64 => Sys2Proof.Machine.execWrCPtr wdata64 s
  | .wrCPtrLo wdata => Sys2Proof.Machine.execWrCPtrLo wdata s
  | .wrCPtrHi wdata => Sys2Proof.Machine.execWrCPtrHi wdata s
  | .rdIntStatus len => Sys2Proof.Machine.execRdIntStatus len s
  | .wrIntStatus data => Sys2Proof.Machine.execWrIntStatus data s
  | .rdIntEnable len => Sys2Proof.Machine.execRdIntEnable len s
  | .wrIntEnable data => Sys2Proof.Machine.execWrIntEnable data s
  | .rdUndef addr len => Sys2Proof.Machine.execRdUndef addr len s
  | .wrUndef addr data => Sys2Proof.Machine.execWrUndef addr data s
  | .engStart => Sys2Proof.Machine.execEngStart s
  | .engRdA => Sys2Proof.Machine.execEngRdA s
  | .engRdB => Sys2Proof.Machine.execEngRdB s
  | .engCompute => Sys2Proof.Machine.execEngCompute s
  | .engWrC => Sys2Proof.Machine.execEngWrC s
  | .engDone => Sys2Proof.Machine.execEngDone s
  | .engError => Sys2Proof.Machine.execEngError s
  | .ctlReset => Sys2Proof.Machine.execCtlReset s
  | .ctlStart => Sys2Proof.Machine.execCtlStart s
  | .irqEval => Sys2Proof.Machine.execIrqEval s
  | .por => Sys2Proof.Machine.execPor s

end Sys2Proof.Machine
end

