-- ==== Sys2Proof/Machine/Step.lean ====
section
/-!
DEFINITION. One step of the whole system (20_memory R70): the next action is fetched and taken. And the placing of a bus
transaction, written as a word, where the next step fetches it.
-/

namespace Sys2Proof.Machine

open Sys2Proof

/-- One atomic step (R10, R70): `fetch` says whose turn it is and what it does. -/
def step (s : State) : Host.Outcome State Fault Refusal :=
  match fetch s with
  | (.run i, t) => exec i t
  | (.memory cs, t) => .next (t.setMem (hostChange t.mem cs))
  | (.idle, t) => .next t

/-- The state with the transaction a word describes put at the front of the schedule, so that the next step takes it
(log 1, log 2). A word that describes no transaction places nothing. -/
def State.withFetchWord (s : State) (nbits w : Nat) : State :=
  match transactionOfWord nbits w with
  | some t => placeTransaction s t
  | none => s

end Sys2Proof.Machine
end

