-- ==== Sys2Proof/Safety.lean ====
section
/-!
DEFINITION. The terms claims are stated in: when a run says something about the hardware, the invariant every step keeps,
and reference forms of the spec's tables and layouts, written without the model's own operations.
-/

namespace Sys2Proof.Machine

open Sys2Proof

/-! ## Safe runs and the invariant -/

/-- A state with no model-level mark (R46): of a run with one, "nothing proved ... speaks for the hardware". -/
abbrev State.Clean (s : State) : Prop := s.marks.writeDuringBusy = false ∧ s.marks.resetInFlight = false

/-- The four legal values of STATUS (R23). -/
abbrev StatusLegal (v : Word) : Prop := v = 0x00000001 ∨ v = 0x00000002 ∨ v = 0x00000005 ∨ v = 0x00000009

/-- The two values INT_STATUS can hold (R28). -/
abbrev IntStatusLegal (v : Word) : Prop := v = 0x00000000 ∨ v = 0x00000001

/-- The line's equation (R30, R187). -/
abbrev State.LineDerived (s : State) : Prop := s.irqLine = decide (s.regs.intStatus &&& s.regs.intEnable ≠ 0)

/-- A dimension the engine accepts (R221). -/
abbrev DimensionValid (n : Word) : Prop := 1 ≤ n.toNat ∧ n.toNat ≤ 256

/-- What the engine's working state holds in each phase (R43): the dimension is legal once it is checked, and a buffer
that has been filled in this job has `n*n` elements. -/
structure Engine.Ok (e : Engine) : Prop where
  dimension : e.phase ∈ [Phase.rdA, .rdB, .compute, .wrC, .fin] → DimensionValid e.job.n
  bufA : e.phase ∈ [Phase.rdB, .compute, .wrC, .fin] → e.bufA.length = e.job.n.toNat * e.job.n.toNat
  bufB : e.phase ∈ [Phase.compute, .wrC, .fin] → e.bufB.length = e.job.n.toNat * e.job.n.toNat
  bufC : e.phase ∈ [Phase.wrC, .fin] → e.bufC.length = e.job.n.toNat * e.job.n.toNat

/-- The invariant of the device. -/
structure State.Inv (s : State) : Prop where
  /-- R30, R187. -/
  line : s.LineDerived
  /-- R23. -/
  status : StatusLegal s.regs.status
  /-- R28. -/
  intStatus : IntStatusLegal s.regs.intStatus
  /-- External memory is in canonical form. -/
  memory : Memory.wf s.mem = true
  /-- R44: where no mark is set, BUSY exactly while a job is in flight. -/
  busy : s.Clean → (s.jobInFlight = true ↔ s.regs.status = 0x00000002)
  /-- Where no mark is set, a pending wake finds the engine waiting. -/
  wake : s.Clean → s.wakePending = true → s.eng.phase = .wait
  /-- R43. -/
  engine : s.eng.Ok

/-- The line's level after the last edge of an event record, deasserted before the first (R47). -/
def levelOfLog (log : List Event) : Bool :=
  log.foldl (fun level e => match e with | .edge rising => rising | _ => level) false

/-- `k` steps, stopping at the first stop. -/
def runSteps : Nat → State → Host.Outcome State Fault Refusal
  | 0, s => .next s
  | k + 1, s =>
    match step s with
    | .next u => runSteps k u
    | .fault r => .fault r
    | .refused r => .refused r

/-! ## What an operation leaves alone -/

/-- Every piece of device state, and external memory, is the same (R148): what remains free to differ is the response, the
event record and the environment's schedule. -/
abbrev SameDevice (s t : State) : Prop :=
  t.regs = s.regs ∧ t.irqLine = s.irqLine ∧ t.eng = s.eng ∧ t.job = s.job ∧ t.wakePending = s.wakePending ∧
  t.marks = s.marks ∧ t.mem = s.mem ∧ t.answers = s.answers ∧ t.schedule = s.schedule ∧ t.free = s.free

/-- The specified device state after a reset agrees (R48): registers, line, phase, wake and marks. -/
abbrev SameSpecified (s t : State) : Prop :=
  t.regs = s.regs ∧ t.irqLine = s.irqLine ∧ t.eng.phase = s.eng.phase ∧ t.wakePending = s.wakePending ∧ t.marks = s.marks

/-- A next state with a function applied to it; a stop stays. -/
def mapNext (f : State → State) : Host.Outcome State Fault Refusal → Host.Outcome State Fault Refusal
  | .next s => .next (f s)
  | .fault r => .fault r
  | .refused r => .refused r

/-! ## Reference layouts -/

/-- The four bytes of a 32-bit value, least significant first (R62, R92). -/
def fourBytes (v : Word) : List Byte :=
  [v.extractLsb' 0 8, v.extractLsb' 8 8, v.extractLsb' 16 8, v.extractLsb' 24 8]

/-- The eight bytes of a 64-bit value, least significant first (R62, R92). -/
def eightBytes (p : Ptr) : List Byte := fourBytes (p.extractLsb' 0 32) ++ fourBytes (p.extractLsb' 32 32)

/-- The data of a read of a 32-bit register (R65): four zero bytes follow its bytes in an 8-byte read. -/
def narrowData (v : Word) : AccessLen → List Byte
  | .four => fourBytes v
  | .eight => fourBytes v ++ [0, 0, 0, 0]

/-- The value a write gives a 32-bit register (R65): the first four of its bytes. -/
def narrowValue : WriteData → Word
  | .four v => v
  | .eight p => p.extractLsb' 0 32

/-- Element `e` of a matrix at external address `a` (R62, R209): four bytes, least significant first. -/
def elemInMem (m : Memory) (a : Nat) (e : Nat) : Word :=
  readByte m (a + 4 * e + 3) ++ readByte m (a + 4 * e + 2) ++ readByte m (a + 4 * e + 1) ++ readByte m (a + 4 * e)

/-- The elements of an n×n matrix at external address `a`, row-major (R62). -/
def matrixInMem (m : Memory) (a n : Nat) : List Word := (List.range (n * n)).map (elemInMem m a)

/-- The accumulator of R224's inner loop after `k` rounds. -/
def accumulate (term : Nat → Word × Word) : Nat → Word
  | 0 => 0
  | k + 1 => f32Add (accumulate term k) (f32Mul (term k).1 (term k).2)

/-! ## Reference forms of actions -/

/-- The record after the line goes from one level to another: an edge only if the level changes (R182). -/
def logEdge (log : List Event) (old new : Bool) : List Event := if old = new then log else log ++ [.edge new]

/-- The state after a write of a job register (R125, R147): the register file given, the mark if a job is in flight, `OK`. -/
def afterJobWrite (s : State) (r : RegFile) : State :=
  { s with
    regs := r
    marks := { s.marks with writeDuringBusy := s.marks.writeDuringBusy || s.wakePending || decide (s.eng.phase ≠ .wait) }
    resp := some ⟨.ok, []⟩ }

/-- The state after the RESET action (R162). -/
def afterReset (s : State) : State :=
  { s with
    regs := ⟨0, 0x00000001, 0, 0, 0, 0, 0, 0⟩
    irqLine := false
    log := logEdge s.log s.irqLine false
    marks := { s.marks with resetInFlight := s.marks.resetInFlight || s.wakePending || decide (s.eng.phase ≠ .wait) } }

/-- The state after an accepted START (R163). -/
def afterStart (s : State) : State :=
  { s with
    regs := { s.regs with status := 0x00000002 }
    job := ⟨s.regs.dimN, s.regs.aPtr, s.regs.bPtr, s.regs.cPtr⟩
    wakePending := true }

/-- The writers of each register (R31), as the value the Register File has after an operation. -/
def registersAfter (r : RegFile) : Instr → RegFile
  | .wrControl d =>
    if (narrowValue d).getLsbD 1 then ⟨0, 0x00000001, 0, 0, 0, 0, 0, 0⟩
    else if (narrowValue d).getLsbD 0 && r.status.getLsbD 0 then
      { r with control := narrowValue d, status := 0x00000002 }
    else { r with control := narrowValue d }
  | .ctlReset | .por => ⟨0, 0x00000001, 0, 0, 0, 0, 0, 0⟩
  | .ctlStart => if r.status.getLsbD 0 then { r with status := 0x00000002 } else r
  | .wrDimN d => { r with dimN := narrowValue d }
  | .wrAPtr v => { r with aPtr := v }
  | .wrAPtrLo v => { r with aPtr := r.aPtr.extractLsb' 32 32 ++ v }
  | .wrAPtrHi v => { r with aPtr := v ++ r.aPtr.extractLsb' 0 32 }
  | .wrBPtr v => { r with bPtr := v }
  | .wrBPtrLo v => { r with bPtr := r.bPtr.extractLsb' 32 32 ++ v }
  | .wrBPtrHi v => { r with bPtr := v ++ r.bPtr.extractLsb' 0 32 }
  | .wrCPtr v => { r with cPtr := v }
  | .wrCPtrLo v => { r with cPtr := r.cPtr.extractLsb' 32 32 ++ v }
  | .wrCPtrHi v => { r with cPtr := v ++ r.cPtr.extractLsb' 0 32 }
  | .wrIntStatus d => { r with intStatus := r.intStatus &&& ~~~(narrowValue d) }
  | .wrIntEnable d => { r with intEnable := narrowValue d }
  | .engDone => { r with status := 0x00000005, intStatus := r.intStatus ||| 0x00000001 }
  | .engError => { r with status := 0x00000009 }
  | .accBadlen _ | .rdControl _ | .rdStatus _ | .wrStatus _ | .rdDimN _ => r
  | .rdAPtr | .rdAPtrLo | .rdAPtrHi | .rdBPtr | .rdBPtrLo | .rdBPtrHi | .rdCPtr | .rdCPtrLo | .rdCPtrHi => r
  | .rdIntStatus _ | .rdIntEnable _ | .rdUndef _ _ | .wrUndef _ _ => r
  | .engStart | .engRdA | .engRdB | .engCompute | .engWrC | .irqEval => r

/-- The operations that write DIM_N or a pointer register (R147). -/
def writesJobRegister : Instr → Bool
  | .wrDimN _ | .wrAPtr _ | .wrAPtrLo _ | .wrAPtrHi _ | .wrBPtr _ | .wrBPtrLo _ | .wrBPtrHi _ => true
  | .wrCPtr _ | .wrCPtrLo _ | .wrCPtrHi _ => true
  | _ => false

/-- The operations that run the RESET action (R161, R162). -/
def runsReset : Instr → Bool
  | .ctlReset => true
  | .wrControl d => (narrowValue d).getLsbD 1
  | _ => false

/-- The phase graph of R220: the successors of a phase under an engine operation. -/
def phaseEdges : List (Phase × Instr × Phase) :=
  [(.wait, .engStart, .rdA), (.wait, .engStart, .fail), (.rdA, .engRdA, .rdB), (.rdA, .engRdA, .fail),
   (.rdB, .engRdB, .compute), (.rdB, .engRdB, .fail), (.compute, .engCompute, .wrC), (.wrC, .engWrC, .fin),
   (.wrC, .engWrC, .fail), (.fin, .engDone, .wait), (.fail, .engError, .wait)]

/-- A binary32 value that is neither a NaN nor an infinity. -/
abbrev F32Finite (w : Word) : Prop := f32IsNaN w = false ∧ f32IsInf w = false

end Sys2Proof.Machine
end

