-- ==== Sys2Proof/Certificates/Slice0/Obligations.lean ====
section
/-!
DEFINITION. The statements about the model, from the rules of spec/. Each docstring cites what its statement formalises,
and says where it rests on a decision of the spec (92_eei_decisions) or on a log entry of the model.
-/

open Sys2Proof Sys2Proof.Machine

/-! ## Encoding (30_encoding) -/

/-- R93 to R97, R61: under every acceptable register map, decoding the transaction of a well-formed operation gives the
operation back, with every operand at every value. Rests on decisions D2, D3 (halves, 8-byte accesses). -/
def Obligations.DecodeOfEncodeIsTheOperation : Prop :=
  ∀ m : RegMap, m.Acceptable → ∀ (i : Instr) (t : Transaction),
    i.wellFormedIn m = true → encodeIn m i = some t → decodeIn m t = i

/-- R93: decode is total and loses nothing: whatever the map, the operation of a transaction is well-formed and its
transaction is the one decoded. Rests on decisions D2, D3. -/
def Obligations.EncodeOfDecodeIsTheTransaction : Prop :=
  ∀ (m : RegMap) (t : Transaction), (decodeIn m t).wellFormedIn m = true ∧ encodeIn m (decodeIn m t) = some t

/-- R98: under every map a transaction whose length is neither 4 nor 8 decodes to ACC.BADLEN, whatever its direction and
offset; ACC.BADLEN answers GENERIC_ERROR and changes nothing else; and no other transaction is answered so. -/
def Obligations.OnlyIllegalLengthsAreRejected : Prop :=
  ∀ (t : Transaction) (s : State),
    (∃ d, exec (.accBadlen t) s = .next { s with resp := some ⟨.genericError, d⟩ }) ∧
    (t.len ≠ 4 → t.len ≠ 8 → ∀ m : RegMap, decodeIn m t = .accBadlen t) ∧
    ((∃ u d, exec (decode t) s = .next u ∧ u.resp = some ⟨.genericError, d⟩) ↔ t.len ≠ 4 ∧ t.len ≠ 8)

/-- R146 (decision D16): the rejection returns no data, and nothing but the response changes. -/
def Obligations.RejectedAccessReturnsNoData : Prop :=
  ∀ (t : Transaction) (s : State), exec (.accBadlen t) s = .next { s with resp := some ⟨.genericError, []⟩ }

/-- R97 under the default map (decision D1, log 3; D3): which accesses are undefined. -/
def Obligations.UndefinedAddressesOfTheDefaultMap : Prop :=
  ∀ (addr : Ptr) (len : AccessLen) (buf : List Byte), buf.length = len.bytes →
    let undefined : Prop := addr = 0x0C ∨ 0x30 ≤ addr.toNat ∨ addr.toNat % 4 ≠ 0 ∨
      (len = .eight ∧ (addr = 0x14 ∨ addr = 0x1C ∨ addr = 0x24))
    (decode (.read addr len.bytes) = .rdUndef addr len ↔ undefined) ∧
    ((∃ d, decode (.write addr buf) = .wrUndef addr d) ↔ undefined)

/-- R96, R102: sample transactions of the register families decode to their operations (offsets: decision D1, log 3). -/
def Obligations.SampleTransactionsDecode : Prop :=
  decode (.write 0x00 [0x01, 0x00, 0x00, 0x00]) = .wrControl (.four 1) ∧
  decode (.read 0x04 8) = .rdStatus .eight ∧
  decode (.write 0x18 [0x88, 0x77, 0x66, 0x55, 0x44, 0x33, 0x22, 0x11]) = .wrBPtr 0x1122334455667788 ∧
  decode (.write 0x24 [0x00, 0x40, 0x00, 0x00]) = .wrCPtrHi 0x00004000 ∧
  decode (.write 0x28 [0x01, 0x00, 0x00, 0x00]) = .wrIntStatus (.four 1) ∧
  decode (.read 0x24 8) = .rdUndef 0x24 .eight ∧
  decode (.read 0x0C 2) = .accBadlen (.read 0x0C 2)

/-! ## Register reads (40_register_access, 42_interrupt) -/

/-- R121, R122, R123, R183, R185 with R65 (decision D2 for the 8-byte read): the read of a 32-bit register answers `OK`
with its four bytes, zero bytes after them in an 8-byte read, and changes nothing else. -/
def Obligations.NarrowRegisterReads : Prop :=
  ∀ (s : State) (len : AccessLen),
    exec (.rdControl len) s = .next { s with resp := some ⟨.ok, narrowData s.regs.control len⟩ } ∧
    exec (.rdStatus len) s = .next { s with resp := some ⟨.ok, narrowData s.regs.status len⟩ } ∧
    exec (.rdDimN len) s = .next { s with resp := some ⟨.ok, narrowData s.regs.dimN len⟩ } ∧
    exec (.rdIntStatus len) s = .next { s with resp := some ⟨.ok, narrowData s.regs.intStatus len⟩ } ∧
    exec (.rdIntEnable len) s = .next { s with resp := some ⟨.ok, narrowData s.regs.intEnable len⟩ }

/-- R128 to R130, R134 to R136, R140 to R142 (decision D3): the whole read, the low and the high half of each pointer
register, and nothing else changed. -/
def Obligations.PointerRegisterReads : Prop :=
  ∀ s : State,
    exec .rdAPtr s = .next { s with resp := some ⟨.ok, eightBytes s.regs.aPtr⟩ } ∧
    exec .rdAPtrLo s = .next { s with resp := some ⟨.ok, fourBytes (s.regs.aPtr.extractLsb' 0 32)⟩ } ∧
    exec .rdAPtrHi s = .next { s with resp := some ⟨.ok, fourBytes (s.regs.aPtr.extractLsb' 32 32)⟩ } ∧
    exec .rdBPtr s = .next { s with resp := some ⟨.ok, eightBytes s.regs.bPtr⟩ } ∧
    exec .rdBPtrLo s = .next { s with resp := some ⟨.ok, fourBytes (s.regs.bPtr.extractLsb' 0 32)⟩ } ∧
    exec .rdBPtrHi s = .next { s with resp := some ⟨.ok, fourBytes (s.regs.bPtr.extractLsb' 32 32)⟩ } ∧
    exec .rdCPtr s = .next { s with resp := some ⟨.ok, eightBytes s.regs.cPtr⟩ } ∧
    exec .rdCPtrLo s = .next { s with resp := some ⟨.ok, fourBytes (s.regs.cPtr.extractLsb' 0 32)⟩ } ∧
    exec .rdCPtrHi s = .next { s with resp := some ⟨.ok, fourBytes (s.regs.cPtr.extractLsb' 32 32)⟩ }

/-- R262, R97, R126 (decision D5): a transaction of legal length that matches no register answers `OK`, logs a warning
(the record: log 18) and changes nothing else; a read returns the sentinel of its length, the same at every address and every
time. One open constant per length is the model's choice (log 4). -/
def Obligations.UndefinedAddressAccesses : Prop :=
  ∀ (s : State) (addr : Ptr) (w : WriteData),
    exec (.rdUndef addr .four) s = .next { s with
      log := s.log ++ [.warnUndefined .read addr], resp := some ⟨.ok, fourBytes Config.sentinel32⟩ } ∧
    exec (.rdUndef addr .eight) s = .next { s with
      log := s.log ++ [.warnUndefined .read addr], resp := some ⟨.ok, eightBytes Config.sentinel64⟩ } ∧
    exec (.wrUndef addr w) s = .next { s with
      log := s.log ++ [.warnUndefined .write addr], resp := some ⟨.ok, []⟩ } ∧
    (∀ (t : Transaction) (len : AccessLen), t.len = len.bytes → Config.regMap.undefinedAt t.addr len = true →
      ∃ d, exec (decode t) s = .next { s with
        log := s.log ++ [.warnUndefined t.dir t.addr], resp := some ⟨.ok, d⟩ })

/-- R68: a read records only the warning of an undefined address (the record: log 18), and read again answers the same;
every write but a START-carrying write to CONTROL, made twice, leaves the device as once; a START-carrying write without
RESET is accepted again once STATUS.IDLE is 1 (the START bit of an 8-byte write: decision D2). -/
def Obligations.RegisterAccessesAreIdempotent : Prop :=
  (∀ (t : Transaction) (s : State), t.dir = .read → ∃ u v, exec (decode t) s = .next u ∧
    (u.log = s.log ∨ ∃ len, decode t = .rdUndef t.addr len ∧ u.log = s.log ++ [.warnUndefined .read t.addr]) ∧
    exec (decode t) u = .next v ∧ v.resp = u.resp) ∧
  (∀ (t : Transaction) (s : State), t.dir = .write → (∀ d, decode t = .wrControl d → (narrowValue d).getLsbD 0 = false) →
    ∃ u v, exec (decode t) s = .next u ∧ exec (decode t) u = .next v ∧ SameDevice u v) ∧
  (∀ (d : WriteData) (s : State), (narrowValue d).getLsbD 1 = false → (narrowValue d).getLsbD 0 = true →
    s.regs.status.getLsbD 0 = true → ∃ u, exec (.wrControl d) s = .next u ∧ u.regs.status = 0x00000002 ∧ u.wakePending = true)

/-! ## Register writes (40_register_access) -/

/-- R124 (decision D4): a write to STATUS answers `OK`, logs a warning and changes nothing else. -/
def Obligations.StatusWriteIsIgnored : Prop :=
  ∀ (s : State) (d : WriteData),
    exec (.wrStatus d) s = .next { s with log := s.log ++ [.warnReadOnly], resp := some ⟨.ok, []⟩ }

/-- R125 (decisions D2, D9): DIM_N takes every value written, the mark of R147 is recorded if a job is in flight, the
answer is `OK`, and nothing else changes. -/
def Obligations.DimensionWriteStores : Prop :=
  ∀ (s : State) (d : WriteData),
    exec (.wrDimN d) s = .next (afterJobWrite s { s.regs with dimN := narrowValue d })

/-- R131 to R133, R137 to R139, R143 to R145 (decisions D3, D9): a whole write replaces its pointer register, a low-half
write keeps the high half, a high-half write keeps the low half, each with the mark of R147, and nothing else changes. -/
def Obligations.PointerRegisterWrites : Prop :=
  ∀ (s : State) (p : Ptr) (v : Word),
    exec (.wrAPtr p) s = .next (afterJobWrite s { s.regs with aPtr := p }) ∧
    exec (.wrAPtrLo v) s = .next (afterJobWrite s { s.regs with aPtr := s.regs.aPtr.extractLsb' 32 32 ++ v }) ∧
    exec (.wrAPtrHi v) s = .next (afterJobWrite s { s.regs with aPtr := v ++ s.regs.aPtr.extractLsb' 0 32 }) ∧
    exec (.wrBPtr p) s = .next (afterJobWrite s { s.regs with bPtr := p }) ∧
    exec (.wrBPtrLo v) s = .next (afterJobWrite s { s.regs with bPtr := s.regs.bPtr.extractLsb' 32 32 ++ v }) ∧
    exec (.wrBPtrHi v) s = .next (afterJobWrite s { s.regs with bPtr := v ++ s.regs.bPtr.extractLsb' 0 32 }) ∧
    exec (.wrCPtr p) s = .next (afterJobWrite s { s.regs with cPtr := p }) ∧
    exec (.wrCPtrLo v) s = .next (afterJobWrite s { s.regs with cPtr := s.regs.cPtr.extractLsb' 32 32 ++ v }) ∧
    exec (.wrCPtrHi v) s = .next (afterJobWrite s { s.regs with cPtr := v ++ s.regs.cPtr.extractLsb' 0 32 })

/-! ## All bus operations (40_register_access) -/

/-- R120: every bus transaction completes in every state, so none waits for the engine, with a response, which is `OK` for
every operation but ACC.BADLEN. -/
def Obligations.BusOperationsRespond : Prop :=
  ∀ (t : Transaction) (s : State), ∃ u r, exec (decode t) s = .next u ∧ u.resp = some r ∧
    (r.status = .ok ↔ ∀ x, decode t ≠ .accBadlen x)

/-- R148: a read completes in every state, in flight or not, and changes no device state. -/
def Obligations.ReadsChangeNoDeviceState : Prop :=
  ∀ (t : Transaction) (s : State), t.dir = .read → ∃ u, exec (decode t) s = .next u ∧ SameDevice s u

/-- R79, for the A pointer at the default map's offset: after an 8-byte write a 4-byte read of each half returns its
bytes, and after 4-byte writes of both halves in either order an 8-byte read returns both. Rests on decision D3. -/
def Obligations.MixedWidthViewOfAPointer : Prop :=
  ∀ (s : State) (lo hi : List Byte), lo.length = 4 → hi.length = 4 →
    let base := Config.regMap.aPtr
    (∃ u v w, exec (decode (.write base (lo ++ hi))) s = .next u ∧
      exec (decode (.read base 4)) u = .next v ∧ v.resp = some ⟨.ok, lo⟩ ∧
      exec (decode (.read (base + 4) 4)) u = .next w ∧ w.resp = some ⟨.ok, hi⟩) ∧
    (∃ u v w, exec (decode (.write base lo)) s = .next u ∧ exec (decode (.write (base + 4) hi)) u = .next v ∧
      exec (decode (.read base 8)) v = .next w ∧ w.resp = some ⟨.ok, lo ++ hi⟩) ∧
    (∃ u v w, exec (decode (.write (base + 4) hi)) s = .next u ∧ exec (decode (.write base lo)) u = .next v ∧
      exec (decode (.read base 8)) v = .next w ∧ w.resp = some ⟨.ok, lo ++ hi⟩)

/-- R31: the table of the writers of each register, with the value each writes: after any operation that completes, the
Register File is the one the table gives. -/
def Obligations.WritersOfEachRegister : Prop :=
  ∀ (i : Instr) (s u : State), exec i s = .next u → u.regs = registersAfter s.regs i

/-! ## The CONTROL write (41_control) -/

/-- R166, R161 (decisions D2, D6, D8, D10): the decision table of a CONTROL write, each case with its whole next state. -/
def Obligations.ControlWriteDecisionTable : Prop :=
  ∀ (s : State) (d : WriteData),
    let v := narrowValue d
    let stored : State := { s with regs := { s.regs with control := v } }
    exec (.wrControl d) s = .next
      { (if v.getLsbD 1 then afterReset s
         else if v.getLsbD 0 && s.regs.status.getLsbD 0 then afterStart stored
         else stored) with resp := some ⟨.ok, []⟩ }

/-- R164: a START while STATUS.IDLE is 0 does nothing beyond storing the written value; no job is queued: the wake is not
set, and no engine operation sets it, so an engine back in P_WAIT without a wake has no enabled operation. -/
def Obligations.StartWhileBusyOnlyStoresControl : Prop :=
  (∀ (s : State) (d : WriteData), (narrowValue d).getLsbD 1 = false → (narrowValue d).getLsbD 0 = true →
    s.regs.status.getLsbD 0 = false →
    exec (.wrControl d) s = .next { s with
      regs := { s.regs with control := narrowValue d }, resp := some ⟨.ok, []⟩ }) ∧
  (∀ i ∈ [Instr.engStart, .engRdA, .engRdB, .engCompute, .engWrC, .engDone, .engError], ∀ s u : State,
    exec i s = .next u → (u.wakePending = true → s.wakePending = true) ∧
      (u.eng.phase = .wait → u.wakePending = false → engineOp u = none))

/-- R162 (decision D10): the RESET action restores every register, deasserts the line, marks a job in flight, and leaves
the engine, the wake, the latch and external memory as they were. -/
def Obligations.ResetRestoresTheRegisters : Prop :=
  ∀ s : State, exec .ctlReset s = .next (afterReset s)

/-- R163, R164 (decisions D7, D24): the START action sets BUSY, captures the job and wakes the engine where STATUS.IDLE is
1. That exec of CTL.START does nothing where it is 0 is the model's choice: the acceptance test stands in it (log 20). -/
def Obligations.StartCapturesTheJob : Prop :=
  ∀ s : State,
    (s.regs.status.getLsbD 0 = true → exec .ctlStart s = .next (afterStart s)) ∧
    (s.regs.status.getLsbD 0 = false → exec .ctlStart s = .next s)

/-- R301 (decisions D10, D20): CTL.RESET and POR leave the same registers, line, phase, wake and marks exactly when no job
is in flight. The latch and the working state, unspecified after POR, are not compared. -/
def Obligations.TheTwoResetsAgreeWhenIdle : Prop :=
  ∀ s : State, s.Clean → ∃ u v, exec .ctlReset s = .next u ∧ exec .por s = .next v ∧
    (SameSpecified v u ↔ s.jobInFlight = false)

/-! ## Interrupts (42_interrupt, 60_exceptions) -/

/-- R182 (decision D11): IRQ.EVAL drives the line to its equation, records an edge if it changes, and nothing else. -/
def Obligations.IrqEvalDrivesTheLine : Prop :=
  ∀ s : State, exec .irqEval s = .next { s with
    irqLine := decide (s.regs.intStatus &&& s.regs.intEnable ≠ 0)
    log := logEdge s.log s.irqLine (decide (s.regs.intStatus &&& s.regs.intEnable ≠ 0)) }

/-- R184 (decision D2): a write to INT_STATUS clears the bits written as 1, and re-evaluates the line. -/
def Obligations.IntStatusWriteClears : Prop :=
  ∀ (s : State) (d : WriteData),
    let v := s.regs.intStatus &&& ~~~(narrowValue d)
    exec (.wrIntStatus d) s = .next { s with
      regs := { s.regs with intStatus := v }
      irqLine := decide (v &&& s.regs.intEnable ≠ 0)
      log := logEdge s.log s.irqLine (decide (v &&& s.regs.intEnable ≠ 0))
      resp := some ⟨.ok, []⟩ }

/-- R186 (decisions D2, D6): a write to INT_ENABLE stores all its bits, and re-evaluates the line. -/
def Obligations.IntEnableWriteStores : Prop :=
  ∀ (s : State) (d : WriteData),
    let v := narrowValue d
    exec (.wrIntEnable d) s = .next { s with
      regs := { s.regs with intEnable := v }
      irqLine := decide (s.regs.intStatus &&& v ≠ 0)
      log := logEdge s.log s.irqLine (decide (s.regs.intStatus &&& v ≠ 0))
      resp := some ⟨.ok, []⟩ }

/-- R274: where the line meets its equation, an acknowledge clears the pending bit and lowers a line that is high in the same
step; a completion while the first is not acknowledged makes no second edge; one after the acknowledge makes a new rising
edge; an acknowledge with the interrupt masked makes none. Rising and falling edges are those of the record (log 18). -/
def Obligations.AcknowledgeAndMergedInterrupts : Prop :=
  ∀ s : State, s.LineDerived → IntStatusLegal s.regs.intStatus →
    let pending := s.regs.intStatus.getLsbD 0
    let enabled := s.regs.intEnable.getLsbD 0
    (∀ d : WriteData, (narrowValue d).getLsbD 0 = true → ∃ u, exec (.wrIntStatus d) s = .next u ∧
      u.regs.intStatus = 0 ∧ u.irqLine = false ∧
      u.log = if pending && enabled then s.log ++ [.edge false] else s.log) ∧
    (s.eng.phase = .fin → ∃ u, exec .engDone s = .next u ∧ u.regs.intStatus = 0x00000001 ∧ u.irqLine = enabled ∧
      u.log = if enabled && !pending then s.log ++ [.edge true] else s.log)

/-- R188: from a state whose line meets its equation and whose INT_STATUS is legal, the line changes only in the listed
operations, in the listed direction and under the listed conditions. -/
def Obligations.LineChangesOnlyWhereListed : Prop :=
  ∀ (i : Instr) (s u : State), s.LineDerived → IntStatusLegal s.regs.intStatus → exec i s = .next u →
    u.irqLine ≠ s.irqLine →
    let pending := s.regs.intStatus.getLsbD 0
    let enabled := s.regs.intEnable.getLsbD 0
    (i = .engDone ∧ u.irqLine = true ∧ enabled = true ∧ pending = false) ∨
    (∃ d, i = .wrIntEnable d ∧ pending = true ∧ u.irqLine = (narrowValue d).getLsbD 0 ∧
      enabled ≠ (narrowValue d).getLsbD 0) ∨
    (∃ d, i = .wrIntStatus d ∧ u.irqLine = false ∧ (narrowValue d).getLsbD 0 = true) ∨
    (runsReset i = true ∧ u.irqLine = false) ∨
    (i = .por ∧ u.irqLine = false)

/-- R271: the pending bit is set only by ENG.DONE, masked or not; it is cleared only by writing 1 to it, by a reset or by
power-on, so neither by a read nor by a START; after a reset the interrupt is neither pending nor enabled; a masked
pending bit does not reach the line and is read all the same. -/
def Obligations.PendingBitIsSetAndClearedAsListed : Prop :=
  (∀ (i : Instr) (s u : State), exec i s = .next u →
    (s.regs.intStatus.getLsbD 0 = false → u.regs.intStatus.getLsbD 0 = true → i = .engDone) ∧
    (s.regs.intStatus.getLsbD 0 = true → u.regs.intStatus.getLsbD 0 = false →
      (∃ d, i = .wrIntStatus d ∧ (narrowValue d).getLsbD 0 = true) ∨ runsReset i = true ∨ i = .por) ∧
    (runsReset i = true ∨ i = .por → u.regs.intStatus = 0 ∧ u.regs.intEnable = 0)) ∧
  (∀ s : State, s.eng.phase = .fin → ∃ u, exec .engDone s = .next u ∧ u.regs.intStatus.getLsbD 0 = true ∧
    (IntStatusLegal s.regs.intStatus → s.regs.intEnable.getLsbD 0 = false → u.irqLine = false) ∧
    ∃ v, exec (.rdIntStatus .four) u = .next v ∧ v.resp = some ⟨.ok, fourBytes u.regs.intStatus⟩)

/-- R47: if the level after the last recorded edge is the line's before a step, it is after it (the record: log 18). -/
def Obligations.EdgeRecordFollowsTheLine : Prop :=
  ∀ s u : State, levelOfLog s.log = s.irqLine → step s = .next u → levelOfLog u.log = u.irqLine

/-! ## The Compute Engine and its DMA requests (43_dma, 44_compute_engine) -/

/-- R221 (decisions D10, D19): ENG.START consumes the wake, copies the captured job, and goes to P_FAIL exactly if its
dimension is 0 or above 256; no request is issued and nothing else changes. -/
def Obligations.EngineStartTakesTheJob : Prop :=
  ∀ s : State, s.eng.phase = .wait → s.wakePending = true →
    exec .engStart s = .next { s with
      wakePending := false
      eng := { s.eng with
        job := s.job
        phase := if s.job.n.toNat = 0 ∨ 256 < s.job.n.toNat then .fail else .rdA } }

/-- R222 (layout of the elements: R62, R209, decision D13): in P_RD_A, once the endpoint has answered, one request for the
whole of operand A: on success the buffer is filled and the phase is P_RD_B; on failure the phase is P_FAIL, the buffer
unspecified (decision D18, log 12), and ENG.ERROR reports it. In the step itself no register, no line and no byte of external
memory changes. The buffer's contents: for a buffer below 2^64 (past it: R207, log 6). The counter `free`: log 10; the record
of requests: log 18; the list of verdicts: log 7. -/
def Obligations.OperandAReadFillsTheBuffer : Prop :=
  ∀ (s : State) (rest : List Answer),
    let n := s.eng.job.n.toNat
    s.eng.phase = .rdA →
    (s.answers = .success :: rest → ∃ buf, exec .engRdA s = .next { s with
        eng := { s.eng with bufA := buf, phase := .rdB }
        answers := rest
        free := s.free + 1
        log := s.log ++ [.dma .read s.eng.job.a (n * n * 4) .success] } ∧
      (s.eng.job.a.toNat + n * n * 4 ≤ 2 ^ 64 → buf = matrixInMem s.mem s.eng.job.a.toNat n)) ∧
    (s.answers = .fail :: rest → ∃ buf u v, exec .engRdA s = .next u ∧ u = { s with
        eng := { s.eng with bufA := buf, phase := .fail }
        answers := rest
        free := s.free + 2
        log := s.log ++ [.dma .read s.eng.job.a (n * n * 4) .fail] } ∧
      exec .engError u = .next v ∧ v.regs = { s.regs with status := 0x00000009 } ∧ v.eng.phase = .wait ∧ v.mem = s.mem)

/-- R223: the same of operand B, in P_RD_B (decisions D13, D18; log 6, 7, 10, 12, 18); its buffer's contents again for a
buffer below 2^64. -/
def Obligations.OperandBReadFillsTheBuffer : Prop :=
  ∀ (s : State) (rest : List Answer),
    let n := s.eng.job.n.toNat
    s.eng.phase = .rdB →
    (s.answers = .success :: rest → ∃ buf, exec .engRdB s = .next { s with
        eng := { s.eng with bufB := buf, phase := .compute }
        answers := rest
        free := s.free + 1
        log := s.log ++ [.dma .read s.eng.job.b (n * n * 4) .success] } ∧
      (s.eng.job.b.toNat + n * n * 4 ≤ 2 ^ 64 → buf = matrixInMem s.mem s.eng.job.b.toNat n)) ∧
    (s.answers = .fail :: rest → ∃ buf u v, exec .engRdB s = .next u ∧ u = { s with
        eng := { s.eng with bufB := buf, phase := .fail }
        answers := rest
        free := s.free + 2
        log := s.log ++ [.dma .read s.eng.job.b (n * n * 4) .fail] } ∧
      exec .engError u = .next v ∧ v.regs = { s.regs with status := 0x00000009 } ∧ v.eng.phase = .wait ∧ v.mem = s.mem)

/-- R224 (decisions D13, D17): ENG.COMPUTE fills the result buffer, element by element in row-major order, with the
accumulation of R224's inner loop over operand buffers of n*n elements, and changes nothing else. -/
def Obligations.ComputeIsTheTripleLoop : Prop :=
  ∀ s : State,
    let n := s.eng.job.n.toNat
    s.eng.phase = .compute → s.eng.bufA.length = n * n → s.eng.bufB.length = n * n →
    ∃ prod : List Word, exec .engCompute s = .next { s with eng := { s.eng with bufC := prod, phase := .wrC } } ∧
      prod.length = n * n ∧
      ∀ i j, i < n → j < n →
        prod[i * n + j]? = some (accumulate (fun k => (s.eng.bufA.getD (i * n + k) 0, s.eng.bufB.getD (k * n + j) 0)) n)

/-- R226 (layout: R62, R209, decision D13; a failed write: R203, decision D18): in P_WR_C, with a result of n*n elements
(R43), once the endpoint has answered, one request for the whole result: on success its bytes are stored at the captured
address, every other byte of external memory reads as before, and the phase is P_FIN; on failure all of external memory is
unchanged, the phase is P_FAIL, and ENG.ERROR reports it. In the step itself nothing else changes. The bytes stored: for a
canonical memory and a buffer below 2^64 (past it: R207, log 6). The counter `free`: log 10; the record: log 18; the verdicts:
log 7. -/
def Obligations.ResultWriteStoresTheBuffer : Prop :=
  ∀ (s : State) (rest : List Answer),
    let n := s.eng.job.n.toNat
    let c := s.eng.job.c.toNat
    s.eng.phase = .wrC → s.eng.bufC.length = n * n →
    (s.answers = .success :: rest → ∃ m, exec .engWrC s = .next { s with
        mem := m
        eng := { s.eng with phase := .fin }
        answers := rest
        free := s.free + 1
        log := s.log ++ [.dma .write s.eng.job.c (n * n * 4) .success] } ∧
      (Memory.wf s.mem = true → c + n * n * 4 ≤ 2 ^ 64 →
        (∀ e, e < n * n → elemInMem m c e = s.eng.bufC.getD e 0) ∧
        (∀ a, ¬(c ≤ a ∧ a < c + n * n * 4) → readByte m a = readByte s.mem a))) ∧
    (s.answers = .fail :: rest → ∃ u v, exec .engWrC s = .next u ∧ u = { s with
        eng := { s.eng with phase := .fail }
        answers := rest
        free := s.free + 1
        log := s.log ++ [.dma .write s.eng.job.c (n * n * 4) .fail] } ∧
      exec .engError u = .next v ∧ v.regs = { s.regs with status := 0x00000009 } ∧ v.eng.phase = .wait ∧ v.mem = s.mem)

/-- R227 (decision D24): ENG.DONE makes STATUS IDLE|DONE, sets the pending bit and drives the line in one step, and
returns to P_WAIT. Nothing else changes but the engine's working state, which is unspecified there (R43, log 11). -/
def Obligations.CompletionReportsDone : Prop :=
  ∀ s : State, s.eng.phase = .fin →
    let v := s.regs.intStatus ||| 0x00000001
    let line := decide (v &&& s.regs.intEnable ≠ 0)
    ∃ e k, e.phase = .wait ∧ exec .engDone s = .next { s with
      regs := { s.regs with status := 0x00000005, intStatus := v }
      irqLine := line
      log := logEdge s.log s.irqLine line
      eng := e
      free := k }

/-- R228 (decisions D12, D24): ENG.ERROR makes STATUS IDLE|ERROR and returns to P_WAIT; INT_STATUS, the line, external
memory and everything else stay, but for the engine's working state, which is unspecified there (R43, log 11). -/
def Obligations.FailureReportsError : Prop :=
  ∀ s : State, s.eng.phase = .fail → ∃ e k, e.phase = .wait ∧ exec .engError s = .next { s with
    regs := { s.regs with status := 0x00000009 }
    eng := e
    free := k }

/-- R91, R206, R221 to R228 (log 19): outside its phase (and, for ENG.START, without a pending wake) an engine operation is
no step of the machine: it stops under the name `notEnabled`; and a request the endpoint has not answered stops under the
name `noResponse`. -/
def Obligations.DisabledEngineOperationsStop : Prop :=
  ∀ s : State,
    (¬(s.eng.phase = .wait ∧ s.wakePending = true) → exec .engStart s = .fault (.notEnabled "ENG.START")) ∧
    (s.eng.phase ≠ .rdA → exec .engRdA s = .fault (.notEnabled "ENG.RD_A")) ∧
    (s.eng.phase ≠ .rdB → exec .engRdB s = .fault (.notEnabled "ENG.RD_B")) ∧
    (s.eng.phase ≠ .compute → exec .engCompute s = .fault (.notEnabled "ENG.COMPUTE")) ∧
    (s.eng.phase ≠ .wrC → exec .engWrC s = .fault (.notEnabled "ENG.WR_C")) ∧
    (s.eng.phase ≠ .fin → exec .engDone s = .fault (.notEnabled "ENG.DONE")) ∧
    (s.eng.phase ≠ .fail → exec .engError s = .fault (.notEnabled "ENG.ERROR")) ∧
    (s.answers = [] →
      (s.eng.phase = .rdA → exec .engRdA s = .fault (.noResponse "ENG.RD_A")) ∧
      (s.eng.phase = .rdB → exec .engRdB s = .fault (.noResponse "ENG.RD_B")) ∧
      (s.eng.phase = .wrC → exec .engWrC s = .fault (.noResponse "ENG.WR_C")))

/-- R206: while the endpoint has not answered (an empty list of verdicts: log 7), no step but a power-on moves the engine
out of the phase of its request; STATUS stays BUSY, unless the host resets the registers; and the engine's own turn changes
nothing. Turns, and the engine's where none is listed, are the model's schedule (log 2). -/
def Obligations.SilentEndpointHoldsTheEngine : Prop :=
  ∀ s : State, s.answers = [] → s.eng.phase ∈ [Phase.rdA, .rdB, .wrC] →
    (∀ u, step s = .next u → s.schedule.head? ≠ some .powerOn → u.eng = s.eng ∧ u.answers = [] ∧
      (s.regs.status = 0x00000002 → u.regs.status = 0x00000002 ∨
        (u.regs.status = 0x00000001 ∧ ∃ t ts, s.schedule = .bus t :: ts ∧ runsReset (decode t) = true))) ∧
    (s.schedule = [] → step s = .next s) ∧
    (∀ ts, s.schedule = .engine :: ts → step s = .next { s with schedule := ts })

/-- R285: an engine in P_WAIT without a wake stays there on its turn, and all registers keep their values; a bus
transaction is answered in every state. Turns, and the engine's where none is listed, are the model's schedule (log 2). -/
def Obligations.WaitingEngineKeepsEverything : Prop :=
  ∀ (s : State) (ts : List Turn),
    (s.eng.phase = .wait → s.wakePending = false →
      (s.schedule = [] → step s = .next s) ∧
      (s.schedule = .engine :: ts → step s = .next { s with schedule := ts })) ∧
    (∀ t, s.schedule = .bus t :: ts → ∃ u r, step s = .next u ∧ u.resp = some r)

/-- R230, R220 (decision D17): an operation other than POR changes `eng.phase` only along the phase graph, so only in an
engine operation. -/
def Obligations.PhaseChangesOnlyAlongTheGraph : Prop :=
  ∀ (i : Instr) (s u : State), exec i s = .next u → i ≠ .por →
    u.eng.phase = s.eng.phase ∨ (s.eng.phase, i, u.eng.phase) ∈ phaseEdges

/-- R232, R74 (decisions D7, D10): no bus transaction changes the engine, external memory, the endpoint's verdicts or the
schedule, and only an accepted START changes the job latch or the wake. -/
def Obligations.BusTransactionsLeaveTheEngineAlone : Prop :=
  ∀ (t : Transaction) (s : State), ∃ u, exec (decode t) s = .next u ∧
    u.eng = s.eng ∧ u.mem = s.mem ∧ u.answers = s.answers ∧ u.schedule = s.schedule ∧ u.free = s.free ∧
    ((u.job = s.job ∧ u.wakePending = s.wakePending) ∨
     (s.regs.status.getLsbD 0 = true ∧ u.regs.status = 0x00000002 ∧ u.wakePending = true ∧
      u.job = ⟨s.regs.dimN, s.regs.aPtr, s.regs.bPtr, s.regs.cPtr⟩))

/-- R74 (decisions D7, D9): the engine does not read DIM_N or the pointer registers while it works: with other values in
them, each engine operation does the same, those values kept. -/
def Obligations.EngineIgnoresTheJobRegisters : Prop :=
  ∀ (i : Instr), i ∈ [Instr.engStart, .engRdA, .engRdB, .engCompute, .engWrC, .engDone, .engError] →
    ∀ (s : State) (n : Word) (a b c : Ptr),
      let f : State → State := fun x => { x with regs := { x.regs with dimN := n, aPtr := a, bPtr := b, cPtr := c } }
      exec i (f s) = mapNext f (exec i s)

/-- R63: external memory is read only by ENG.RD_A and ENG.RD_B and written only by ENG.WR_C: with other contents, every
other operation does the same and keeps them; and ENG.WR_C's effect on the device does not depend on them. -/
def Obligations.OnlyDmaStepsReachExternalMemory : Prop :=
  (∀ (i : Instr), i ∉ [Instr.engRdA, .engRdB, .engWrC] → ∀ (s : State) (m : Memory),
    exec i (s.setMem m) = mapNext (·.setMem m) (exec i s)) ∧
  (∀ i ∈ [Instr.engRdA, .engRdB], ∀ s u : State, exec i s = .next u → u.mem = s.mem) ∧
  (∀ (s : State) (m m' : Memory),
    mapNext (·.setMem m') (exec .engWrC (s.setMem m)) = mapNext (·.setMem m') (exec .engWrC s))

/-- R233: for a job that reaches P_FIN, whatever the host does between its engine steps (which leaves the engine as it
is), the bytes written at the captured C address are the reference product of the bytes read by ENG.RD_A and by ENG.RD_B.
Layout and arithmetic: decision D13, log 14; `s.free` numbers a request, for bytes past 2^64 only (log 6, 10). -/
def Obligations.JobWritesTheReferenceProduct : Prop :=
  ∀ s0 s1 s2 s3 s4 s5 s6 s7 : State,
    exec .engRdA s0 = .next s1 → s2.eng = s1.eng →
    exec .engRdB s2 = .next s3 → s4.eng = s3.eng →
    exec .engCompute s4 = .next s5 → s6.eng = s5.eng →
    exec .engWrC s6 = .next s7 → s7.eng.phase = .fin →
    let j := s0.eng.job
    let len := j.n.toNat * j.n.toNat * 4
    s7.mem = writeBytes s6.free s6.mem j.c
      (matMulRef j.n.toNat (readBytes s0.free s0.mem j.a len) (readBytes s2.free s2.mem j.b len))

/-- R230: from any phase other than P_WAIT the engine, left to itself (an empty schedule, log 2) and answered by the
endpoint (the list of verdicts, log 7), is in P_WAIT again after at most five steps. The cut into steps is decision D17. -/
def Obligations.JobEndsWithinFiveSteps : Prop :=
  ∀ s : State, s.schedule = [] → s.eng.phase ≠ .wait → 3 ≤ s.answers.length →
    ∃ k u, k ≤ 5 ∧ runSteps k s = .next u ∧ u.eng.phase = .wait

/-- R229, R227, R72: an accepted job of legal dimension whose three requests succeed ends after six engine steps (decision
D17) with STATUS IDLE|DONE (decision D24), the pending bit set, and in external memory the reference product (decision D13,
log 14) of the operands as they were, written before DONE; C may overlap A or B (R78). Empty schedule: log 2; verdicts: log 7;
`s.free`, `s.free + 1`, `s.free + 2` number the requests, for bytes past 2^64 only (log 6, 10). -/
def Obligations.SuccessfulJobEndsDone : Prop :=
  ∀ (s : State) (rest : List Answer),
    let j := s.job
    let len := j.n.toNat * j.n.toNat * 4
    s.schedule = [] → s.eng.phase = .wait → s.wakePending = true → DimensionValid j.n →
    s.answers = .success :: .success :: .success :: rest →
    ∃ u, runSteps 6 s = .next u ∧ u.eng.phase = .wait ∧ u.wakePending = false ∧ u.answers = rest ∧
      u.regs = { s.regs with status := 0x00000005, intStatus := s.regs.intStatus ||| 0x00000001 } ∧
      u.mem = writeBytes (s.free + 2) s.mem j.c
        (matMulRef j.n.toNat (readBytes s.free s.mem j.a len) (readBytes (s.free + 1) s.mem j.b len))

/-- R265, R211: an accepted job of legal dimension whose first, second or third request fails ends with STATUS IDLE|ERROR;
the requests before the failed one and it alone are issued, each once; no other register, not the line and no byte of
external memory changes. The number of steps: decision D17; memory after a failed write: decision D18; empty schedule: log 2;
verdicts: log 7; the record: log 18. -/
def Obligations.FailedJobChangesOnlyStatus : Prop :=
  ∀ (s : State) (rest : List Answer),
    let j := s.job
    let len := j.n.toNat * j.n.toNat * 4
    let ends : Nat → List Event → Prop := fun k requests => ∃ u, runSteps k s = .next u ∧ u.eng.phase = .wait ∧
      u.wakePending = false ∧ u.answers = rest ∧ u.regs = { s.regs with status := 0x00000009 } ∧
      u.irqLine = s.irqLine ∧ u.mem = s.mem ∧ u.log = s.log ++ requests
    s.schedule = [] → s.eng.phase = .wait → s.wakePending = true → DimensionValid j.n →
    (s.answers = .fail :: rest → ends 3 [.dma .read j.a len .fail]) ∧
    (s.answers = .success :: .fail :: rest → ends 4 [.dma .read j.a len .success, .dma .read j.b len .fail]) ∧
    (s.answers = .success :: .success :: .fail :: rest →
      ends 6 [.dma .read j.a len .success, .dma .read j.b len .success, .dma .write j.c len .fail])

/-! ## The arithmetic of ENG.COMPUTE (44_compute_engine R225; general knowledge, log 14) -/

/-- R225: the sum of two finite values, where finite, is the binary32 value nearest to the exact sum, and of two nearest
values the one with an even significand; it is infinite exactly when the exact sum is at least halfway past the largest
finite value. Rests on decision D13 and log 14. -/
def Obligations.AdditionRoundsToNearestEven : Prop :=
  ∀ a b : Word, F32Finite a → F32Finite b →
    let exact := f32Value a + f32Value b
    let r := f32Add a b
    f32IsNaN r = false ∧
    (f32IsInf r = true ↔ (2 ^ 25 - 1) * 2 ^ 403 ≤ exact.natAbs) ∧
    (F32Finite r → ∀ w : Word, F32Finite w →
      (f32Value r - exact).natAbs ≤ (f32Value w - exact).natAbs ∧
      ((f32Value r - exact).natAbs = (f32Value w - exact).natAbs → f32Value w ≠ f32Value r → r.getLsbD 0 = false))

/-- R225: the product of two finite values, likewise, against the exact product. Rests on decision D13 and log 14. -/
def Obligations.MultiplicationRoundsToNearestEven : Prop :=
  ∀ a b : Word, F32Finite a → F32Finite b →
    let exact := f32Value a * f32Value b
    let r := f32Mul a b
    f32IsNaN r = false ∧
    (f32IsInf r = true ↔ (2 ^ 25 - 1) * 2 ^ 703 ≤ exact.natAbs) ∧
    (F32Finite r → ∀ w : Word, F32Finite w →
      (f32Value r * 2 ^ 300 - exact).natAbs ≤ (f32Value w * 2 ^ 300 - exact).natAbs ∧
      ((f32Value r * 2 ^ 300 - exact).natAbs = (f32Value w * 2 ^ 300 - exact).natAbs → f32Value w ≠ f32Value r →
        r.getLsbD 0 = false))

/-- R225: which results are NaN: a NaN operand, zero times infinity, a sum of opposite infinities, and nothing else.
Which NaN is free (log 15). Rests on decision D13 and log 14. -/
def Obligations.NaNResultsAreTheInvalidOnes : Prop :=
  ∀ a b : Word,
    (f32IsNaN (f32Mul a b) = true ↔ f32IsNaN a = true ∨ f32IsNaN b = true ∨
      (f32IsInf a = true ∧ f32IsZero b = true) ∨ (f32IsZero a = true ∧ f32IsInf b = true)) ∧
    (f32IsNaN (f32Add a b) = true ↔ f32IsNaN a = true ∨ f32IsNaN b = true ∨
      (f32IsInf a = true ∧ f32IsInf b = true ∧ f32Sign a ≠ f32Sign b))

/-- 95_test_vectors V40 (R224, R225): no element of a product is ever -0.0, whatever the operands. -/
def Obligations.NoElementIsMinusZero : Prop :=
  ∀ (n : Nat) (a b : List Word), ∀ e ∈ matMul n a b, e ≠ 0x80000000

/-! ## Power-on, steps and invariants (20_memory, 10_state, 70_reset_and_hazards) -/

/-- R300, R48 (decision D20): POR puts registers, line, phase, wake and marks at their power-on values; external memory is
not affected; the latch and the working state are unspecified (free values, log 10); what the environment holds stays (log 21). -/
def Obligations.PowerOnRestoresTheDevice : Prop :=
  ∀ s : State, ∃ e j k, e.phase = .wait ∧ exec .por s = .next { s with
    regs := ⟨0, 0x00000001, 0, 0, 0, 0, 0, 0⟩
    irqLine := false
    log := logEdge s.log s.irqLine false
    eng := e
    job := j
    wakePending := false
    marks := ⟨false, false⟩
    free := k }

/-- R48: the state after power-on: every register at the value the spec gives, the line deasserted, the engine waiting, no
wake, no mark. -/
def Obligations.ResetStateIsPowerOn : Prop :=
  State.reset.regs = ⟨0, 0x00000001, 0, 0, 0, 0, 0, 0⟩ ∧ State.reset.irqLine = false ∧
  State.reset.eng.phase = .wait ∧ State.reset.wakePending = false ∧ State.reset.Clean

/-- R70, R10 (log 2): a step at a scheduled transaction is the decoded operation, which is well-formed, on the state with
the turn taken off; on the engine's turn it is the enabled engine operation, or nothing; on power-on it is POR. -/
def Obligations.StepRunsTheNextOperation : Prop :=
  ∀ (s : State) (t : Transaction) (ts : List Turn),
    (decode t).wellFormed = true ∧
    (s.schedule = .bus t :: ts → step s = exec (decode t) { s with schedule := ts }) ∧
    (∀ i, engineOp s = some i → s.schedule = .engine :: ts → step s = exec i { s with schedule := ts }) ∧
    (∀ i, engineOp s = some i → s.schedule = [] → step s = exec i s) ∧
    (s.schedule = .powerOn :: ts → step s = exec .por { s with schedule := ts })

/-- R63, R70 (log 29): a change the host makes to its own memory is one step that touches nothing else; an address it does
not name reads as before, and an address it names last with a value reads that value. -/
def Obligations.HostMemoryChangeIsOneStep : Prop :=
  ∀ (s : State) (cs : List (Ptr × Byte)) (ts : List Turn), Memory.wf s.mem = true → s.schedule = .hostMem cs :: ts →
    ∃ m, step s = .next { s with mem := m, schedule := ts } ∧
      (∀ a : Nat, (∀ c ∈ cs, c.1.toNat ≠ a) → readByte m a = readByte s.mem a) ∧
      (∀ pre p b post, cs = pre ++ (p, b) :: post → (∀ c ∈ post, c.1 ≠ p) → readByte m p.toNat = b)

/-- R70, R120, R206: the machine always goes on: every step from every state has a next state, so no schedule, no verdict
and no register value makes it stop. -/
def Obligations.EveryStepGoesOn : Prop :=
  ∀ s : State, ∃ u, step s = .next u

/-- R46 (decisions D9, D10): the marks are sticky: only POR clears one, and each is set exactly by the operations its rule
names, while a job is in flight. -/
def Obligations.MarksAreSticky : Prop :=
  ∀ (i : Instr) (s u : State), exec i s = .next u → i ≠ .por →
    u.marks.writeDuringBusy = (s.marks.writeDuringBusy || (writesJobRegister i && s.jobInFlight)) ∧
    u.marks.resetInFlight = (s.marks.resetInFlight || (runsReset i && s.jobInFlight))

/-- R23 (decision D24): STATUS holds one of its four values after every step from a state in which it does, marks or not. -/
def Obligations.StatusStaysLegal : Prop :=
  ∀ s u : State, StatusLegal s.regs.status → step s = .next u → StatusLegal u.regs.status

/-- R23, R28, R30, R43, R44, R187: every step keeps the invariant: the line's equation, the legal values of STATUS and
INT_STATUS, the canonical form of memory, BUSY exactly while a job is in flight and the wake only in P_WAIT where no mark
is set, and the sizes of the filled buffers. Rests on decisions D7, D10, D11, D24. -/
def Obligations.StepKeepsTheInvariant : Prop :=
  ∀ s u : State, s.Inv → step s = .next u → u.Inv

/-- R48: the invariant holds after power-on. -/
def Obligations.ResetMeetsTheInvariant : Prop := State.reset.Inv
end

