-- ==== Sys2Proof/Laws/Bytes.lean ====
section
/-!
SUPPORT. Byte sequences and values: `leNat` and `bytesLe` are inverse on sequences of a fixed length.
-/

namespace Sys2Proof

@[simp] theorem bytesLe_length (v n : Nat) : (bytesLe v n).length = n := by
  induction n generalizing v with
  | zero => rfl
  | succ n ih => simp [bytesLe, ih]

theorem leNat_lt (bs : List Byte) : leNat bs < 256 ^ bs.length := by
  induction bs with
  | nil => simp [leNat]
  | cons b bs ih =>
    have := b.isLt
    simp only [leNat, List.length_cons, Nat.pow_succ]
    omega

theorem leNat_bytesLe (v n : Nat) : leNat (bytesLe v n) = v % 256 ^ n := by
  induction n generalizing v with
  | zero => simp [bytesLe, leNat, Nat.mod_one]
  | succ n ih =>
    rw [bytesLe, leNat, ih, Nat.pow_succ, Nat.mul_comm (256 ^ n), Nat.mod_mul, BitVec.toNat_ofNat]

theorem bytesLe_leNat (bs : List Byte) : bytesLe (leNat bs) bs.length = bs := by
  induction bs with
  | nil => rfl
  | cons b bs ih =>
    have hb := b.isLt
    have hdiv : leNat (b :: bs) / 256 = leNat bs := by simp only [leNat]; omega
    have hmod : BitVec.ofNat 8 (leNat (b :: bs)) = b := by
      apply BitVec.eq_of_toNat_eq
      simp only [leNat, BitVec.toNat_ofNat]
      omega
    simp only [List.length_cons, bytesLe, hdiv, hmod, ih]

theorem le32_bytesLe (v : Word) : le32 (bytesLe v.toNat 4) = v := by
  apply BitVec.eq_of_toNat_eq
  have := v.isLt
  simp only [le32, leNat_bytesLe, BitVec.toNat_ofNat]
  omega

theorem le64_bytesLe (p : Ptr) : le64 (bytesLe p.toNat 8) = p := by
  apply BitVec.eq_of_toNat_eq
  have := p.isLt
  simp only [le64, leNat_bytesLe, BitVec.toNat_ofNat]
  omega

theorem bytesLe_le32 {bs : List Byte} (h : bs.length = 4) : bytesLe (le32 bs).toNat 4 = bs := by
  have hlt := leNat_lt bs
  rw [h] at hlt
  have hv : (le32 bs).toNat = leNat bs := by simp only [le32, BitVec.toNat_ofNat]; omega
  rw [hv, ← h, bytesLe_leNat]

theorem bytesLe_le64 {bs : List Byte} (h : bs.length = 8) : bytesLe (le64 bs).toNat 8 = bs := by
  have hlt := leNat_lt bs
  rw [h] at hlt
  have hv : (le64 bs).toNat = leNat bs := by simp only [le64, BitVec.toNat_ofNat]; omega
  rw [hv, ← h, bytesLe_leNat]

/-- What `writeData` answers: an operand whose bytes are the buffer, exactly when the length is legal. -/
theorem writeData_cases (buf : List Byte) :
    (∃ d, writeData buf = some d ∧ d.bytes = buf ∧ d.len.bytes = buf.length) ∨
    (writeData buf = none ∧ buf.length ≠ 4 ∧ buf.length ≠ 8) := by
  unfold writeData legalLen
  by_cases h4 : buf.length = 4
  · exact .inl ⟨.four (le32 buf), by simp [h4], bytesLe_le32 h4, by simp [WriteData.len, AccessLen.bytes, h4]⟩
  · by_cases h8 : buf.length = 8
    · exact .inl ⟨.eight (le64 buf), by simp [h8], bytesLe_le64 h8, by simp [WriteData.len, AccessLen.bytes, h8]⟩
    · exact .inr ⟨by simp [h4, h8], h4, h8⟩

@[simp] theorem writeData_bytes (d : WriteData) : writeData d.bytes = some d := by
  cases d with
  | four v => simp [writeData, WriteData.bytes, legalLen, le32_bytesLe]
  | eight p => simp [writeData, WriteData.bytes, legalLen, le64_bytesLe]

@[simp] theorem legalLen_bytes (len : AccessLen) : legalLen len.bytes = some len := by cases len <;> rfl

end Sys2Proof
end

