-- ==== Sys2Proof/Laws/Memory.lean ====
section
/-!
SUPPORT. External memory: a read after a write, the frame of every write, and that every memory operation keeps the
canonical form.
-/

namespace Sys2Proof.Machine

open Sys2Proof

/-- The canonical form, as a proposition. -/
theorem Memory.wf_iff (m : Memory) :
    Memory.wf m = true ↔ m.Pairwise (fun x y => x.1 < y.1) ∧ ∀ x ∈ m, x.1 < 2 ^ 64 ∧ x.2 ≠ unlistedByte := by
  simp [Memory.wf]

theorem Memory.wf_nil : Memory.wf [] = true := by decide

theorem Memory.wf_tail {x : Host.Cell} {m : Memory} (h : Memory.wf (x :: m) = true) : Memory.wf m = true := by
  rw [Memory.wf_iff] at *
  exact ⟨(List.pairwise_cons.1 h.1).2, fun y hy => h.2 y (List.mem_cons_of_mem _ hy)⟩

/-- Below every listed address nothing is listed. -/
theorem readByte_of_lt {m : Memory} {a : Nat} (h : ∀ x ∈ m, a < x.1) : readByte m a = unlistedByte := by
  induction m with
  | nil => rfl
  | cons x m ih =>
    have hx := h x (List.mem_cons_self ..)
    simp only [readByte]
    rw [if_neg (by omega)]
    exact ih fun y hy => h y (List.mem_cons_of_mem _ hy)

theorem mem_storeByte {m : Memory} {a : Nat} {b : Byte} {x : Host.Cell} (h : x ∈ storeByte m a b) :
    x ∈ m ∨ (x = (a, b) ∧ b ≠ unlistedByte) := by
  induction m with
  | nil =>
    simp only [storeByte] at h
    split at h <;> simp_all
  | cons y m ih =>
    obtain ⟨k, v⟩ := y
    simp only [storeByte] at h
    split at h
    · rcases List.mem_cons.1 h with rfl | h
      · exact .inl (List.mem_cons_self ..)
      · exact (ih h).imp (List.mem_cons_of_mem _) id
    · split at h
      · split at h
        · exact .inl (List.mem_cons_of_mem _ h)
        · rcases List.mem_cons.1 h with rfl | h
          · exact .inr ⟨rfl, ‹_›⟩
          · exact .inl (List.mem_cons_of_mem _ h)
      · split at h
        · exact .inl h
        · rcases List.mem_cons.1 h with rfl | h
          · exact .inr ⟨rfl, ‹_›⟩
          · exact .inl h

/-- A byte store keeps the canonical form. -/
theorem storeByte_wf {m : Memory} {a : Nat} {b : Byte} (h : Memory.wf m = true) (ha : a < 2 ^ 64) :
    Memory.wf (storeByte m a b) = true := by
  rw [Memory.wf_iff] at *
  refine ⟨?_, fun x hx => ?_⟩
  · obtain ⟨hs, hm⟩ := h
    induction m with
    | nil => simp only [storeByte]; split <;> simp
    | cons y m ih =>
      obtain ⟨k, v⟩ := y
      obtain ⟨hk, hs⟩ := List.pairwise_cons.1 hs
      have hm' : ∀ x ∈ m, x.1 < 2 ^ 64 ∧ x.2 ≠ unlistedByte := fun x hx => hm x (List.mem_cons_of_mem _ hx)
      simp only [storeByte]
      split
      · refine List.pairwise_cons.2 ⟨fun x hx => ?_, ih hs hm'⟩
        rcases mem_storeByte hx with hx | ⟨rfl, _⟩
        · exact hk x hx
        · assumption
      · split
        · split
          · exact hs
          · subst_vars; exact List.pairwise_cons.2 ⟨hk, hs⟩
        · split
          · exact List.pairwise_cons.2 ⟨hk, hs⟩
          · refine List.pairwise_cons.2 ⟨fun x hx => ?_, List.pairwise_cons.2 ⟨hk, hs⟩⟩
            have hak : a < k := by omega
            rcases List.mem_cons.1 hx with rfl | hx
            · exact hak
            · exact Nat.lt_trans hak (hk x hx)
  · rcases mem_storeByte hx with hx | ⟨rfl, hb⟩
    · exact h.2 x hx
    · exact ⟨ha, hb⟩

/-- A read after a byte store: the stored byte at its address, the byte before everywhere else. -/
theorem readByte_storeByte {m : Memory} {a : Nat} {b : Byte} (h : Memory.wf m = true) (x : Nat) :
    readByte (storeByte m a b) x = if x = a then b else readByte m x := by
  induction m with
  | nil =>
    simp only [storeByte]
    split <;> simp_all [readByte]
    split <;> simp_all
    intro hx; exact absurd hx.symm ‹_›
  | cons y m ih =>
    have ih := ih (Memory.wf_tail h)
    obtain ⟨k, v⟩ := y
    have hk := (List.pairwise_cons.1 ((Memory.wf_iff _).1 h).1).1
    simp only [storeByte]
    split
    · simp only [readByte]
      split
      · rw [if_neg (by omega)]
      · exact ih
    · split
      · rename_i hka
        subst hka
        split
        · by_cases hx : x = k
          · subst hx
            have : readByte m x = unlistedByte := readByte_of_lt fun y hy => hk y hy
            simp_all
          · simp [readByte, hx, Ne.symm hx]
        · by_cases hx : x = k <;> simp [readByte, hx, eq_comm]
      · have hak : a < k := by omega
        split
        · by_cases hx : x = a
          · subst hx
            have h1 : readByte m x = unlistedByte := readByte_of_lt fun y hy => Nat.lt_trans hak (hk y hy)
            simp only [readByte, if_true]
            rw [if_neg (by omega), h1]
            simp_all
          · simp [readByte, hx]
        · by_cases hx : x = a
          · simp [readByte, hx]
          · simp only [readByte, if_neg hx, if_neg (Ne.symm hx)]

/-- Every address a request reaches is below 2^64. -/
theorem extAddr_lt {k : Nat} {addr : Ptr} {i a : Nat} (h : extAddr k addr i = some a) : a < 2 ^ 64 := by
  unfold extAddr at h
  split at h
  · simp_all
  · obtain ⟨p, _, rfl⟩ := Option.map_eq_some_iff.1 h
    exact p.isLt

/-- Inside the address space, byte `i` of a request is at `addr + i`. -/
theorem extAddr_of_lt {k : Nat} {addr : Ptr} {i : Nat} (h : addr.toNat + i < 2 ^ 64) :
    extAddr k addr i = some (addr.toNat + i) := by
  unfold extAddr; rw [if_pos h]

/-- A DMA write keeps the canonical form. -/
theorem writeFrom_wf {k : Nat} {m : Memory} {addr : Ptr} {i : Nat} {bs : List Byte} (h : Memory.wf m = true) :
    Memory.wf (writeFrom k m addr i bs) = true := by
  induction bs generalizing m i with
  | nil => exact h
  | cons b bs ih =>
    refine ih ?_
    cases hx : extAddr k addr i with
    | none => exact h
    | some a => exact storeByte_wf h (extAddr_lt hx)

theorem writeBytes_wf {k : Nat} {m : Memory} {addr : Ptr} {bs : List Byte} (h : Memory.wf m = true) :
    Memory.wf (writeBytes k m addr bs) = true := writeFrom_wf h

/-- A host's change of its memory keeps the canonical form. -/
theorem hostChange_wf {m : Memory} {cs : List (Ptr × Byte)} (h : Memory.wf m = true) :
    Memory.wf (hostChange m cs) = true := by
  induction cs generalizing m with
  | nil => exact h
  | cons c cs ih => exact ih (storeByte_wf h c.1.isLt)

/-- A read after a DMA write that stays inside the address space: the written byte inside its range, the byte before
everywhere else. -/
theorem readByte_writeFrom {k : Nat} {m : Memory} {addr : Ptr} {i : Nat} {bs : List Byte} (h : Memory.wf m = true)
    (hfit : addr.toNat + i + bs.length ≤ 2 ^ 64) (x : Nat) :
    readByte (writeFrom k m addr i bs) x =
      if addr.toNat + i ≤ x ∧ x < addr.toNat + i + bs.length then bs.getD (x - (addr.toNat + i)) 0 else readByte m x := by
  induction bs generalizing m i with
  | nil =>
    simp only [writeFrom, List.length_nil]
    rw [if_neg (by omega)]
  | cons b bs ih =>
    simp only [List.length_cons] at hfit
    simp only [writeFrom, extAddr_of_lt (k := k) (addr := addr) (i := i) (by omega), List.length_cons]
    rw [ih (storeByte_wf h (by omega)) (by omega), readByte_storeByte h]
    by_cases h1 : addr.toNat + (i + 1) ≤ x ∧ x < addr.toNat + (i + 1) + bs.length
    · rw [if_pos h1, if_pos (by omega)]
      obtain ⟨d, rfl⟩ : ∃ d, x = addr.toNat + i + (d + 1) := ⟨x - (addr.toNat + i) - 1, by omega⟩
      rw [show addr.toNat + i + (d + 1) - (addr.toNat + (i + 1)) = d by omega,
        show addr.toNat + i + (d + 1) - (addr.toNat + i) = d + 1 by omega]
      simp
    · rw [if_neg h1]
      by_cases h2 : x = addr.toNat + i
      · subst h2
        rw [if_pos rfl, if_pos (by omega)]
        simp
      · rw [if_neg h2, if_neg (by omega)]

/-- The frame of a host's change: an address it does not name reads as before. -/
theorem readByte_hostChange_of_not_mem {m : Memory} {cs : List (Ptr × Byte)} (h : Memory.wf m = true) {x : Nat}
    (hx : ∀ c ∈ cs, c.1.toNat ≠ x) : readByte (hostChange m cs) x = readByte m x := by
  induction cs generalizing m with
  | nil => rfl
  | cons c cs ih =>
    simp only [hostChange]
    rw [ih (storeByte_wf h c.1.isLt) fun d hd => hx d (List.mem_cons_of_mem _ hd), readByte_storeByte h,
      if_neg (Ne.symm (hx c (List.mem_cons_self ..)))]

@[simp] theorem readBytes_length (k : Nat) (m : Memory) (addr : Ptr) (n : Nat) : (readBytes k m addr n).length = n := by
  simp [readBytes]

/-- Byte `i` of a read that stays inside the address space. -/
theorem readAt_of_lt {k : Nat} {m : Memory} {addr : Ptr} {i : Nat} (h : addr.toNat + i < 2 ^ 64) :
    readAt k m addr i = readByte m (addr.toNat + i) := by
  simp [readAt, extAddr_of_lt h]

/-! ### Elements and bytes -/

theorem elemsOfBytes_length (n : Nat) (bs : List Byte) (h : bs.length = 4 * n) : (elemsOfBytes bs).length = n := by
  induction n generalizing bs with
  | zero => rw [List.length_eq_zero_iff.1 (by omega : bs.length = 0)]; rfl
  | succ n ih =>
    match bs, h with
    | b0 :: b1 :: b2 :: b3 :: bs, h =>
      simp only [elemsOfBytes, List.length_cons]
      rw [ih bs (by simp only [List.length_cons] at h; omega)]

@[simp] theorem bytesOfElems_length (es : List Word) : (bytesOfElems es).length = es.length * 4 := by
  induction es with
  | nil => rfl
  | cons e es ih =>
    simp only [bytesOfElems, List.flatMap_cons, List.length_append, List.length_cons] at *
    rw [ih]
    simp [bytesLe]
    omega

end Sys2Proof.Machine
end

