-- ==== Sys2Proof/Laws/State.lean ====
section
/-!
SUPPORT. What each named update of Machine/Ops.lean writes and what it leaves: one lemma per field per update, so that no
proof unfolds a record update.
-/

namespace Sys2Proof.Machine

open Sys2Proof

variable (s : State)

/-! ### setControl -/

@[simp] theorem State.setControl_regs (v : Word) : (s.setControl v).regs = { s.regs with control := v } := rfl
@[simp] theorem State.setControl_irqLine (v : Word) : (s.setControl v).irqLine = s.irqLine := rfl
@[simp] theorem State.setControl_eng (v : Word) : (s.setControl v).eng = s.eng := rfl
@[simp] theorem State.setControl_job (v : Word) : (s.setControl v).job = s.job := rfl
@[simp] theorem State.setControl_wakePending (v : Word) : (s.setControl v).wakePending = s.wakePending := rfl
@[simp] theorem State.setControl_marks (v : Word) : (s.setControl v).marks = s.marks := rfl
@[simp] theorem State.setControl_resp (v : Word) : (s.setControl v).resp = s.resp := rfl
@[simp] theorem State.setControl_log (v : Word) : (s.setControl v).log = s.log := rfl
@[simp] theorem State.setControl_mem (v : Word) : (s.setControl v).mem = s.mem := rfl
@[simp] theorem State.setControl_schedule (v : Word) : (s.setControl v).schedule = s.schedule := rfl
@[simp] theorem State.setControl_answers (v : Word) : (s.setControl v).answers = s.answers := rfl
@[simp] theorem State.setControl_free (v : Word) : (s.setControl v).free = s.free := rfl

/-! ### setStatus -/

@[simp] theorem State.setStatus_regs (v : Word) : (s.setStatus v).regs = { s.regs with status := v } := rfl
@[simp] theorem State.setStatus_irqLine (v : Word) : (s.setStatus v).irqLine = s.irqLine := rfl
@[simp] theorem State.setStatus_eng (v : Word) : (s.setStatus v).eng = s.eng := rfl
@[simp] theorem State.setStatus_job (v : Word) : (s.setStatus v).job = s.job := rfl
@[simp] theorem State.setStatus_wakePending (v : Word) : (s.setStatus v).wakePending = s.wakePending := rfl
@[simp] theorem State.setStatus_marks (v : Word) : (s.setStatus v).marks = s.marks := rfl
@[simp] theorem State.setStatus_resp (v : Word) : (s.setStatus v).resp = s.resp := rfl
@[simp] theorem State.setStatus_log (v : Word) : (s.setStatus v).log = s.log := rfl
@[simp] theorem State.setStatus_mem (v : Word) : (s.setStatus v).mem = s.mem := rfl
@[simp] theorem State.setStatus_schedule (v : Word) : (s.setStatus v).schedule = s.schedule := rfl
@[simp] theorem State.setStatus_answers (v : Word) : (s.setStatus v).answers = s.answers := rfl
@[simp] theorem State.setStatus_free (v : Word) : (s.setStatus v).free = s.free := rfl

/-! ### setDimN -/

@[simp] theorem State.setDimN_regs (v : Word) : (s.setDimN v).regs = { s.regs with dimN := v } := rfl
@[simp] theorem State.setDimN_irqLine (v : Word) : (s.setDimN v).irqLine = s.irqLine := rfl
@[simp] theorem State.setDimN_eng (v : Word) : (s.setDimN v).eng = s.eng := rfl
@[simp] theorem State.setDimN_job (v : Word) : (s.setDimN v).job = s.job := rfl
@[simp] theorem State.setDimN_wakePending (v : Word) : (s.setDimN v).wakePending = s.wakePending := rfl
@[simp] theorem State.setDimN_marks (v : Word) : (s.setDimN v).marks = s.marks := rfl
@[simp] theorem State.setDimN_resp (v : Word) : (s.setDimN v).resp = s.resp := rfl
@[simp] theorem State.setDimN_log (v : Word) : (s.setDimN v).log = s.log := rfl
@[simp] theorem State.setDimN_mem (v : Word) : (s.setDimN v).mem = s.mem := rfl
@[simp] theorem State.setDimN_schedule (v : Word) : (s.setDimN v).schedule = s.schedule := rfl
@[simp] theorem State.setDimN_answers (v : Word) : (s.setDimN v).answers = s.answers := rfl
@[simp] theorem State.setDimN_free (v : Word) : (s.setDimN v).free = s.free := rfl

/-! ### setAPtr -/

@[simp] theorem State.setAPtr_regs (v : Ptr) : (s.setAPtr v).regs = { s.regs with aPtr := v } := rfl
@[simp] theorem State.setAPtr_irqLine (v : Ptr) : (s.setAPtr v).irqLine = s.irqLine := rfl
@[simp] theorem State.setAPtr_eng (v : Ptr) : (s.setAPtr v).eng = s.eng := rfl
@[simp] theorem State.setAPtr_job (v : Ptr) : (s.setAPtr v).job = s.job := rfl
@[simp] theorem State.setAPtr_wakePending (v : Ptr) : (s.setAPtr v).wakePending = s.wakePending := rfl
@[simp] theorem State.setAPtr_marks (v : Ptr) : (s.setAPtr v).marks = s.marks := rfl
@[simp] theorem State.setAPtr_resp (v : Ptr) : (s.setAPtr v).resp = s.resp := rfl
@[simp] theorem State.setAPtr_log (v : Ptr) : (s.setAPtr v).log = s.log := rfl
@[simp] theorem State.setAPtr_mem (v : Ptr) : (s.setAPtr v).mem = s.mem := rfl
@[simp] theorem State.setAPtr_schedule (v : Ptr) : (s.setAPtr v).schedule = s.schedule := rfl
@[simp] theorem State.setAPtr_answers (v : Ptr) : (s.setAPtr v).answers = s.answers := rfl
@[simp] theorem State.setAPtr_free (v : Ptr) : (s.setAPtr v).free = s.free := rfl

/-! ### setBPtr -/

@[simp] theorem State.setBPtr_regs (v : Ptr) : (s.setBPtr v).regs = { s.regs with bPtr := v } := rfl
@[simp] theorem State.setBPtr_irqLine (v : Ptr) : (s.setBPtr v).irqLine = s.irqLine := rfl
@[simp] theorem State.setBPtr_eng (v : Ptr) : (s.setBPtr v).eng = s.eng := rfl
@[simp] theorem State.setBPtr_job (v : Ptr) : (s.setBPtr v).job = s.job := rfl
@[simp] theorem State.setBPtr_wakePending (v : Ptr) : (s.setBPtr v).wakePending = s.wakePending := rfl
@[simp] theorem State.setBPtr_marks (v : Ptr) : (s.setBPtr v).marks = s.marks := rfl
@[simp] theorem State.setBPtr_resp (v : Ptr) : (s.setBPtr v).resp = s.resp := rfl
@[simp] theorem State.setBPtr_log (v : Ptr) : (s.setBPtr v).log = s.log := rfl
@[simp] theorem State.setBPtr_mem (v : Ptr) : (s.setBPtr v).mem = s.mem := rfl
@[simp] theorem State.setBPtr_schedule (v : Ptr) : (s.setBPtr v).schedule = s.schedule := rfl
@[simp] theorem State.setBPtr_answers (v : Ptr) : (s.setBPtr v).answers = s.answers := rfl
@[simp] theorem State.setBPtr_free (v : Ptr) : (s.setBPtr v).free = s.free := rfl

/-! ### setCPtr -/

@[simp] theorem State.setCPtr_regs (v : Ptr) : (s.setCPtr v).regs = { s.regs with cPtr := v } := rfl
@[simp] theorem State.setCPtr_irqLine (v : Ptr) : (s.setCPtr v).irqLine = s.irqLine := rfl
@[simp] theorem State.setCPtr_eng (v : Ptr) : (s.setCPtr v).eng = s.eng := rfl
@[simp] theorem State.setCPtr_job (v : Ptr) : (s.setCPtr v).job = s.job := rfl
@[simp] theorem State.setCPtr_wakePending (v : Ptr) : (s.setCPtr v).wakePending = s.wakePending := rfl
@[simp] theorem State.setCPtr_marks (v : Ptr) : (s.setCPtr v).marks = s.marks := rfl
@[simp] theorem State.setCPtr_resp (v : Ptr) : (s.setCPtr v).resp = s.resp := rfl
@[simp] theorem State.setCPtr_log (v : Ptr) : (s.setCPtr v).log = s.log := rfl
@[simp] theorem State.setCPtr_mem (v : Ptr) : (s.setCPtr v).mem = s.mem := rfl
@[simp] theorem State.setCPtr_schedule (v : Ptr) : (s.setCPtr v).schedule = s.schedule := rfl
@[simp] theorem State.setCPtr_answers (v : Ptr) : (s.setCPtr v).answers = s.answers := rfl
@[simp] theorem State.setCPtr_free (v : Ptr) : (s.setCPtr v).free = s.free := rfl

/-! ### setIntStatus -/

@[simp] theorem State.setIntStatus_regs (v : Word) : (s.setIntStatus v).regs = { s.regs with intStatus := v } := rfl
@[simp] theorem State.setIntStatus_irqLine (v : Word) : (s.setIntStatus v).irqLine = s.irqLine := rfl
@[simp] theorem State.setIntStatus_eng (v : Word) : (s.setIntStatus v).eng = s.eng := rfl
@[simp] theorem State.setIntStatus_job (v : Word) : (s.setIntStatus v).job = s.job := rfl
@[simp] theorem State.setIntStatus_wakePending (v : Word) : (s.setIntStatus v).wakePending = s.wakePending := rfl
@[simp] theorem State.setIntStatus_marks (v : Word) : (s.setIntStatus v).marks = s.marks := rfl
@[simp] theorem State.setIntStatus_resp (v : Word) : (s.setIntStatus v).resp = s.resp := rfl
@[simp] theorem State.setIntStatus_log (v : Word) : (s.setIntStatus v).log = s.log := rfl
@[simp] theorem State.setIntStatus_mem (v : Word) : (s.setIntStatus v).mem = s.mem := rfl
@[simp] theorem State.setIntStatus_schedule (v : Word) : (s.setIntStatus v).schedule = s.schedule := rfl
@[simp] theorem State.setIntStatus_answers (v : Word) : (s.setIntStatus v).answers = s.answers := rfl
@[simp] theorem State.setIntStatus_free (v : Word) : (s.setIntStatus v).free = s.free := rfl

/-! ### setIntEnable -/

@[simp] theorem State.setIntEnable_regs (v : Word) : (s.setIntEnable v).regs = { s.regs with intEnable := v } := rfl
@[simp] theorem State.setIntEnable_irqLine (v : Word) : (s.setIntEnable v).irqLine = s.irqLine := rfl
@[simp] theorem State.setIntEnable_eng (v : Word) : (s.setIntEnable v).eng = s.eng := rfl
@[simp] theorem State.setIntEnable_job (v : Word) : (s.setIntEnable v).job = s.job := rfl
@[simp] theorem State.setIntEnable_wakePending (v : Word) : (s.setIntEnable v).wakePending = s.wakePending := rfl
@[simp] theorem State.setIntEnable_marks (v : Word) : (s.setIntEnable v).marks = s.marks := rfl
@[simp] theorem State.setIntEnable_resp (v : Word) : (s.setIntEnable v).resp = s.resp := rfl
@[simp] theorem State.setIntEnable_log (v : Word) : (s.setIntEnable v).log = s.log := rfl
@[simp] theorem State.setIntEnable_mem (v : Word) : (s.setIntEnable v).mem = s.mem := rfl
@[simp] theorem State.setIntEnable_schedule (v : Word) : (s.setIntEnable v).schedule = s.schedule := rfl
@[simp] theorem State.setIntEnable_answers (v : Word) : (s.setIntEnable v).answers = s.answers := rfl
@[simp] theorem State.setIntEnable_free (v : Word) : (s.setIntEnable v).free = s.free := rfl

/-! ### resetRegs -/

@[simp] theorem State.resetRegs_regs : (s.resetRegs).regs = RegFile.powerOn := rfl
@[simp] theorem State.resetRegs_irqLine : (s.resetRegs).irqLine = s.irqLine := rfl
@[simp] theorem State.resetRegs_eng : (s.resetRegs).eng = s.eng := rfl
@[simp] theorem State.resetRegs_job : (s.resetRegs).job = s.job := rfl
@[simp] theorem State.resetRegs_wakePending : (s.resetRegs).wakePending = s.wakePending := rfl
@[simp] theorem State.resetRegs_marks : (s.resetRegs).marks = s.marks := rfl
@[simp] theorem State.resetRegs_resp : (s.resetRegs).resp = s.resp := rfl
@[simp] theorem State.resetRegs_log : (s.resetRegs).log = s.log := rfl
@[simp] theorem State.resetRegs_mem : (s.resetRegs).mem = s.mem := rfl
@[simp] theorem State.resetRegs_schedule : (s.resetRegs).schedule = s.schedule := rfl
@[simp] theorem State.resetRegs_answers : (s.resetRegs).answers = s.answers := rfl
@[simp] theorem State.resetRegs_free : (s.resetRegs).free = s.free := rfl

/-! ### setIrqLine -/

@[simp] theorem State.setIrqLine_regs (v : Bool) : (s.setIrqLine v).regs = s.regs := rfl
@[simp] theorem State.setIrqLine_irqLine (v : Bool) : (s.setIrqLine v).irqLine = v := rfl
@[simp] theorem State.setIrqLine_eng (v : Bool) : (s.setIrqLine v).eng = s.eng := rfl
@[simp] theorem State.setIrqLine_job (v : Bool) : (s.setIrqLine v).job = s.job := rfl
@[simp] theorem State.setIrqLine_wakePending (v : Bool) : (s.setIrqLine v).wakePending = s.wakePending := rfl
@[simp] theorem State.setIrqLine_marks (v : Bool) : (s.setIrqLine v).marks = s.marks := rfl
@[simp] theorem State.setIrqLine_resp (v : Bool) : (s.setIrqLine v).resp = s.resp := rfl
@[simp] theorem State.setIrqLine_log (v : Bool) : (s.setIrqLine v).log = s.log := rfl
@[simp] theorem State.setIrqLine_mem (v : Bool) : (s.setIrqLine v).mem = s.mem := rfl
@[simp] theorem State.setIrqLine_schedule (v : Bool) : (s.setIrqLine v).schedule = s.schedule := rfl
@[simp] theorem State.setIrqLine_answers (v : Bool) : (s.setIrqLine v).answers = s.answers := rfl
@[simp] theorem State.setIrqLine_free (v : Bool) : (s.setIrqLine v).free = s.free := rfl

/-! ### setPhase -/

@[simp] theorem State.setPhase_regs (p : Phase) : (s.setPhase p).regs = s.regs := rfl
@[simp] theorem State.setPhase_irqLine (p : Phase) : (s.setPhase p).irqLine = s.irqLine := rfl
@[simp] theorem State.setPhase_eng (p : Phase) : (s.setPhase p).eng = { s.eng with phase := p } := rfl
@[simp] theorem State.setPhase_job (p : Phase) : (s.setPhase p).job = s.job := rfl
@[simp] theorem State.setPhase_wakePending (p : Phase) : (s.setPhase p).wakePending = s.wakePending := rfl
@[simp] theorem State.setPhase_marks (p : Phase) : (s.setPhase p).marks = s.marks := rfl
@[simp] theorem State.setPhase_resp (p : Phase) : (s.setPhase p).resp = s.resp := rfl
@[simp] theorem State.setPhase_log (p : Phase) : (s.setPhase p).log = s.log := rfl
@[simp] theorem State.setPhase_mem (p : Phase) : (s.setPhase p).mem = s.mem := rfl
@[simp] theorem State.setPhase_schedule (p : Phase) : (s.setPhase p).schedule = s.schedule := rfl
@[simp] theorem State.setPhase_answers (p : Phase) : (s.setPhase p).answers = s.answers := rfl
@[simp] theorem State.setPhase_free (p : Phase) : (s.setPhase p).free = s.free := rfl

/-! ### setEngJob -/

@[simp] theorem State.setEngJob_regs (j : Job) : (s.setEngJob j).regs = s.regs := rfl
@[simp] theorem State.setEngJob_irqLine (j : Job) : (s.setEngJob j).irqLine = s.irqLine := rfl
@[simp] theorem State.setEngJob_eng (j : Job) : (s.setEngJob j).eng = { s.eng with job := j } := rfl
@[simp] theorem State.setEngJob_job (j : Job) : (s.setEngJob j).job = s.job := rfl
@[simp] theorem State.setEngJob_wakePending (j : Job) : (s.setEngJob j).wakePending = s.wakePending := rfl
@[simp] theorem State.setEngJob_marks (j : Job) : (s.setEngJob j).marks = s.marks := rfl
@[simp] theorem State.setEngJob_resp (j : Job) : (s.setEngJob j).resp = s.resp := rfl
@[simp] theorem State.setEngJob_log (j : Job) : (s.setEngJob j).log = s.log := rfl
@[simp] theorem State.setEngJob_mem (j : Job) : (s.setEngJob j).mem = s.mem := rfl
@[simp] theorem State.setEngJob_schedule (j : Job) : (s.setEngJob j).schedule = s.schedule := rfl
@[simp] theorem State.setEngJob_answers (j : Job) : (s.setEngJob j).answers = s.answers := rfl
@[simp] theorem State.setEngJob_free (j : Job) : (s.setEngJob j).free = s.free := rfl

/-! ### setBufA -/

@[simp] theorem State.setBufA_regs (b : List Word) : (s.setBufA b).regs = s.regs := rfl
@[simp] theorem State.setBufA_irqLine (b : List Word) : (s.setBufA b).irqLine = s.irqLine := rfl
@[simp] theorem State.setBufA_eng (b : List Word) : (s.setBufA b).eng = { s.eng with bufA := b } := rfl
@[simp] theorem State.setBufA_job (b : List Word) : (s.setBufA b).job = s.job := rfl
@[simp] theorem State.setBufA_wakePending (b : List Word) : (s.setBufA b).wakePending = s.wakePending := rfl
@[simp] theorem State.setBufA_marks (b : List Word) : (s.setBufA b).marks = s.marks := rfl
@[simp] theorem State.setBufA_resp (b : List Word) : (s.setBufA b).resp = s.resp := rfl
@[simp] theorem State.setBufA_log (b : List Word) : (s.setBufA b).log = s.log := rfl
@[simp] theorem State.setBufA_mem (b : List Word) : (s.setBufA b).mem = s.mem := rfl
@[simp] theorem State.setBufA_schedule (b : List Word) : (s.setBufA b).schedule = s.schedule := rfl
@[simp] theorem State.setBufA_answers (b : List Word) : (s.setBufA b).answers = s.answers := rfl
@[simp] theorem State.setBufA_free (b : List Word) : (s.setBufA b).free = s.free := rfl

/-! ### setBufB -/

@[simp] theorem State.setBufB_regs (b : List Word) : (s.setBufB b).regs = s.regs := rfl
@[simp] theorem State.setBufB_irqLine (b : List Word) : (s.setBufB b).irqLine = s.irqLine := rfl
@[simp] theorem State.setBufB_eng (b : List Word) : (s.setBufB b).eng = { s.eng with bufB := b } := rfl
@[simp] theorem State.setBufB_job (b : List Word) : (s.setBufB b).job = s.job := rfl
@[simp] theorem State.setBufB_wakePending (b : List Word) : (s.setBufB b).wakePending = s.wakePending := rfl
@[simp] theorem State.setBufB_marks (b : List Word) : (s.setBufB b).marks = s.marks := rfl
@[simp] theorem State.setBufB_resp (b : List Word) : (s.setBufB b).resp = s.resp := rfl
@[simp] theorem State.setBufB_log (b : List Word) : (s.setBufB b).log = s.log := rfl
@[simp] theorem State.setBufB_mem (b : List Word) : (s.setBufB b).mem = s.mem := rfl
@[simp] theorem State.setBufB_schedule (b : List Word) : (s.setBufB b).schedule = s.schedule := rfl
@[simp] theorem State.setBufB_answers (b : List Word) : (s.setBufB b).answers = s.answers := rfl
@[simp] theorem State.setBufB_free (b : List Word) : (s.setBufB b).free = s.free := rfl

/-! ### setBufC -/

@[simp] theorem State.setBufC_regs (b : List Word) : (s.setBufC b).regs = s.regs := rfl
@[simp] theorem State.setBufC_irqLine (b : List Word) : (s.setBufC b).irqLine = s.irqLine := rfl
@[simp] theorem State.setBufC_eng (b : List Word) : (s.setBufC b).eng = { s.eng with bufC := b } := rfl
@[simp] theorem State.setBufC_job (b : List Word) : (s.setBufC b).job = s.job := rfl
@[simp] theorem State.setBufC_wakePending (b : List Word) : (s.setBufC b).wakePending = s.wakePending := rfl
@[simp] theorem State.setBufC_marks (b : List Word) : (s.setBufC b).marks = s.marks := rfl
@[simp] theorem State.setBufC_resp (b : List Word) : (s.setBufC b).resp = s.resp := rfl
@[simp] theorem State.setBufC_log (b : List Word) : (s.setBufC b).log = s.log := rfl
@[simp] theorem State.setBufC_mem (b : List Word) : (s.setBufC b).mem = s.mem := rfl
@[simp] theorem State.setBufC_schedule (b : List Word) : (s.setBufC b).schedule = s.schedule := rfl
@[simp] theorem State.setBufC_answers (b : List Word) : (s.setBufC b).answers = s.answers := rfl
@[simp] theorem State.setBufC_free (b : List Word) : (s.setBufC b).free = s.free := rfl

/-! ### setJob -/

@[simp] theorem State.setJob_regs (j : Job) : (s.setJob j).regs = s.regs := rfl
@[simp] theorem State.setJob_irqLine (j : Job) : (s.setJob j).irqLine = s.irqLine := rfl
@[simp] theorem State.setJob_eng (j : Job) : (s.setJob j).eng = s.eng := rfl
@[simp] theorem State.setJob_job (j : Job) : (s.setJob j).job = j := rfl
@[simp] theorem State.setJob_wakePending (j : Job) : (s.setJob j).wakePending = s.wakePending := rfl
@[simp] theorem State.setJob_marks (j : Job) : (s.setJob j).marks = s.marks := rfl
@[simp] theorem State.setJob_resp (j : Job) : (s.setJob j).resp = s.resp := rfl
@[simp] theorem State.setJob_log (j : Job) : (s.setJob j).log = s.log := rfl
@[simp] theorem State.setJob_mem (j : Job) : (s.setJob j).mem = s.mem := rfl
@[simp] theorem State.setJob_schedule (j : Job) : (s.setJob j).schedule = s.schedule := rfl
@[simp] theorem State.setJob_answers (j : Job) : (s.setJob j).answers = s.answers := rfl
@[simp] theorem State.setJob_free (j : Job) : (s.setJob j).free = s.free := rfl

/-! ### setWake -/

@[simp] theorem State.setWake_regs (b : Bool) : (s.setWake b).regs = s.regs := rfl
@[simp] theorem State.setWake_irqLine (b : Bool) : (s.setWake b).irqLine = s.irqLine := rfl
@[simp] theorem State.setWake_eng (b : Bool) : (s.setWake b).eng = s.eng := rfl
@[simp] theorem State.setWake_job (b : Bool) : (s.setWake b).job = s.job := rfl
@[simp] theorem State.setWake_wakePending (b : Bool) : (s.setWake b).wakePending = b := rfl
@[simp] theorem State.setWake_marks (b : Bool) : (s.setWake b).marks = s.marks := rfl
@[simp] theorem State.setWake_resp (b : Bool) : (s.setWake b).resp = s.resp := rfl
@[simp] theorem State.setWake_log (b : Bool) : (s.setWake b).log = s.log := rfl
@[simp] theorem State.setWake_mem (b : Bool) : (s.setWake b).mem = s.mem := rfl
@[simp] theorem State.setWake_schedule (b : Bool) : (s.setWake b).schedule = s.schedule := rfl
@[simp] theorem State.setWake_answers (b : Bool) : (s.setWake b).answers = s.answers := rfl
@[simp] theorem State.setWake_free (b : Bool) : (s.setWake b).free = s.free := rfl

/-! ### setMarks -/

@[simp] theorem State.setMarks_regs (m : Marks) : (s.setMarks m).regs = s.regs := rfl
@[simp] theorem State.setMarks_irqLine (m : Marks) : (s.setMarks m).irqLine = s.irqLine := rfl
@[simp] theorem State.setMarks_eng (m : Marks) : (s.setMarks m).eng = s.eng := rfl
@[simp] theorem State.setMarks_job (m : Marks) : (s.setMarks m).job = s.job := rfl
@[simp] theorem State.setMarks_wakePending (m : Marks) : (s.setMarks m).wakePending = s.wakePending := rfl
@[simp] theorem State.setMarks_marks (m : Marks) : (s.setMarks m).marks = m := rfl
@[simp] theorem State.setMarks_resp (m : Marks) : (s.setMarks m).resp = s.resp := rfl
@[simp] theorem State.setMarks_log (m : Marks) : (s.setMarks m).log = s.log := rfl
@[simp] theorem State.setMarks_mem (m : Marks) : (s.setMarks m).mem = s.mem := rfl
@[simp] theorem State.setMarks_schedule (m : Marks) : (s.setMarks m).schedule = s.schedule := rfl
@[simp] theorem State.setMarks_answers (m : Marks) : (s.setMarks m).answers = s.answers := rfl
@[simp] theorem State.setMarks_free (m : Marks) : (s.setMarks m).free = s.free := rfl

/-! ### respond -/

@[simp] theorem State.respond_regs (r : RespStatus) (d : List Byte) : (s.respond r d).regs = s.regs := rfl
@[simp] theorem State.respond_irqLine (r : RespStatus) (d : List Byte) : (s.respond r d).irqLine = s.irqLine := rfl
@[simp] theorem State.respond_eng (r : RespStatus) (d : List Byte) : (s.respond r d).eng = s.eng := rfl
@[simp] theorem State.respond_job (r : RespStatus) (d : List Byte) : (s.respond r d).job = s.job := rfl
@[simp] theorem State.respond_wakePending (r : RespStatus) (d : List Byte) : (s.respond r d).wakePending = s.wakePending := rfl
@[simp] theorem State.respond_marks (r : RespStatus) (d : List Byte) : (s.respond r d).marks = s.marks := rfl
@[simp] theorem State.respond_resp (r : RespStatus) (d : List Byte) : (s.respond r d).resp = some ⟨r, d⟩ := rfl
@[simp] theorem State.respond_log (r : RespStatus) (d : List Byte) : (s.respond r d).log = s.log := rfl
@[simp] theorem State.respond_mem (r : RespStatus) (d : List Byte) : (s.respond r d).mem = s.mem := rfl
@[simp] theorem State.respond_schedule (r : RespStatus) (d : List Byte) : (s.respond r d).schedule = s.schedule := rfl
@[simp] theorem State.respond_answers (r : RespStatus) (d : List Byte) : (s.respond r d).answers = s.answers := rfl
@[simp] theorem State.respond_free (r : RespStatus) (d : List Byte) : (s.respond r d).free = s.free := rfl

/-! ### record -/

@[simp] theorem State.record_regs (e : Event) : (s.record e).regs = s.regs := rfl
@[simp] theorem State.record_irqLine (e : Event) : (s.record e).irqLine = s.irqLine := rfl
@[simp] theorem State.record_eng (e : Event) : (s.record e).eng = s.eng := rfl
@[simp] theorem State.record_job (e : Event) : (s.record e).job = s.job := rfl
@[simp] theorem State.record_wakePending (e : Event) : (s.record e).wakePending = s.wakePending := rfl
@[simp] theorem State.record_marks (e : Event) : (s.record e).marks = s.marks := rfl
@[simp] theorem State.record_resp (e : Event) : (s.record e).resp = s.resp := rfl
@[simp] theorem State.record_log (e : Event) : (s.record e).log = s.log ++ [e] := rfl
@[simp] theorem State.record_mem (e : Event) : (s.record e).mem = s.mem := rfl
@[simp] theorem State.record_schedule (e : Event) : (s.record e).schedule = s.schedule := rfl
@[simp] theorem State.record_answers (e : Event) : (s.record e).answers = s.answers := rfl
@[simp] theorem State.record_free (e : Event) : (s.record e).free = s.free := rfl

/-! ### setMem -/

@[simp] theorem State.setMem_regs (m : Memory) : (s.setMem m).regs = s.regs := rfl
@[simp] theorem State.setMem_irqLine (m : Memory) : (s.setMem m).irqLine = s.irqLine := rfl
@[simp] theorem State.setMem_eng (m : Memory) : (s.setMem m).eng = s.eng := rfl
@[simp] theorem State.setMem_job (m : Memory) : (s.setMem m).job = s.job := rfl
@[simp] theorem State.setMem_wakePending (m : Memory) : (s.setMem m).wakePending = s.wakePending := rfl
@[simp] theorem State.setMem_marks (m : Memory) : (s.setMem m).marks = s.marks := rfl
@[simp] theorem State.setMem_resp (m : Memory) : (s.setMem m).resp = s.resp := rfl
@[simp] theorem State.setMem_log (m : Memory) : (s.setMem m).log = s.log := rfl
@[simp] theorem State.setMem_mem (m : Memory) : (s.setMem m).mem = m := rfl
@[simp] theorem State.setMem_schedule (m : Memory) : (s.setMem m).schedule = s.schedule := rfl
@[simp] theorem State.setMem_answers (m : Memory) : (s.setMem m).answers = s.answers := rfl
@[simp] theorem State.setMem_free (m : Memory) : (s.setMem m).free = s.free := rfl

/-! ### setSchedule -/

@[simp] theorem State.setSchedule_regs (ts : List Turn) : (s.setSchedule ts).regs = s.regs := rfl
@[simp] theorem State.setSchedule_irqLine (ts : List Turn) : (s.setSchedule ts).irqLine = s.irqLine := rfl
@[simp] theorem State.setSchedule_eng (ts : List Turn) : (s.setSchedule ts).eng = s.eng := rfl
@[simp] theorem State.setSchedule_job (ts : List Turn) : (s.setSchedule ts).job = s.job := rfl
@[simp] theorem State.setSchedule_wakePending (ts : List Turn) : (s.setSchedule ts).wakePending = s.wakePending := rfl
@[simp] theorem State.setSchedule_marks (ts : List Turn) : (s.setSchedule ts).marks = s.marks := rfl
@[simp] theorem State.setSchedule_resp (ts : List Turn) : (s.setSchedule ts).resp = s.resp := rfl
@[simp] theorem State.setSchedule_log (ts : List Turn) : (s.setSchedule ts).log = s.log := rfl
@[simp] theorem State.setSchedule_mem (ts : List Turn) : (s.setSchedule ts).mem = s.mem := rfl
@[simp] theorem State.setSchedule_schedule (ts : List Turn) : (s.setSchedule ts).schedule = ts := rfl
@[simp] theorem State.setSchedule_answers (ts : List Turn) : (s.setSchedule ts).answers = s.answers := rfl
@[simp] theorem State.setSchedule_free (ts : List Turn) : (s.setSchedule ts).free = s.free := rfl

/-! ### setAnswers -/

@[simp] theorem State.setAnswers_regs (as : List Answer) : (s.setAnswers as).regs = s.regs := rfl
@[simp] theorem State.setAnswers_irqLine (as : List Answer) : (s.setAnswers as).irqLine = s.irqLine := rfl
@[simp] theorem State.setAnswers_eng (as : List Answer) : (s.setAnswers as).eng = s.eng := rfl
@[simp] theorem State.setAnswers_job (as : List Answer) : (s.setAnswers as).job = s.job := rfl
@[simp] theorem State.setAnswers_wakePending (as : List Answer) : (s.setAnswers as).wakePending = s.wakePending := rfl
@[simp] theorem State.setAnswers_marks (as : List Answer) : (s.setAnswers as).marks = s.marks := rfl
@[simp] theorem State.setAnswers_resp (as : List Answer) : (s.setAnswers as).resp = s.resp := rfl
@[simp] theorem State.setAnswers_log (as : List Answer) : (s.setAnswers as).log = s.log := rfl
@[simp] theorem State.setAnswers_mem (as : List Answer) : (s.setAnswers as).mem = s.mem := rfl
@[simp] theorem State.setAnswers_schedule (as : List Answer) : (s.setAnswers as).schedule = s.schedule := rfl
@[simp] theorem State.setAnswers_answers (as : List Answer) : (s.setAnswers as).answers = as := rfl
@[simp] theorem State.setAnswers_free (as : List Answer) : (s.setAnswers as).free = s.free := rfl

/-! ### useFree -/

@[simp] theorem State.useFree_regs (k : Nat) : (s.useFree k).regs = s.regs := rfl
@[simp] theorem State.useFree_irqLine (k : Nat) : (s.useFree k).irqLine = s.irqLine := rfl
@[simp] theorem State.useFree_eng (k : Nat) : (s.useFree k).eng = s.eng := rfl
@[simp] theorem State.useFree_job (k : Nat) : (s.useFree k).job = s.job := rfl
@[simp] theorem State.useFree_wakePending (k : Nat) : (s.useFree k).wakePending = s.wakePending := rfl
@[simp] theorem State.useFree_marks (k : Nat) : (s.useFree k).marks = s.marks := rfl
@[simp] theorem State.useFree_resp (k : Nat) : (s.useFree k).resp = s.resp := rfl
@[simp] theorem State.useFree_log (k : Nat) : (s.useFree k).log = s.log := rfl
@[simp] theorem State.useFree_mem (k : Nat) : (s.useFree k).mem = s.mem := rfl
@[simp] theorem State.useFree_schedule (k : Nat) : (s.useFree k).schedule = s.schedule := rfl
@[simp] theorem State.useFree_answers (k : Nat) : (s.useFree k).answers = s.answers := rfl
@[simp] theorem State.useFree_free (k : Nat) : (s.useFree k).free = s.free + k := rfl

end Sys2Proof.Machine
end

