-- ==== Sys2Proof/Laws/Ops.lean ====
section
/-!
SUPPORT. What each shared action of Machine/Ops.lean does: its effect once, and every field it leaves alone.
-/

namespace Sys2Proof.Machine

open Sys2Proof

/-! ### The marks (R147, R162) -/

/-- The mark of a job-register write: set if a job is in flight, kept otherwise. -/
theorem noteJobWrite_marks (s : State) : (noteJobWrite s).marks =
    { s.marks with writeDuringBusy := s.marks.writeDuringBusy || s.jobInFlight } := by
  unfold noteJobWrite
  cases h : s.jobInFlight <;> simp

@[simp] theorem noteJobWrite_regs (s : State) : (noteJobWrite s).regs = s.regs := by unfold noteJobWrite; split <;> rfl
@[simp] theorem noteJobWrite_irqLine (s : State) : (noteJobWrite s).irqLine = s.irqLine := by unfold noteJobWrite; split <;> rfl
@[simp] theorem noteJobWrite_eng (s : State) : (noteJobWrite s).eng = s.eng := by unfold noteJobWrite; split <;> rfl
@[simp] theorem noteJobWrite_job (s : State) : (noteJobWrite s).job = s.job := by unfold noteJobWrite; split <;> rfl
@[simp] theorem noteJobWrite_wakePending (s : State) : (noteJobWrite s).wakePending = s.wakePending := by unfold noteJobWrite; split <;> rfl
@[simp] theorem noteJobWrite_resp (s : State) : (noteJobWrite s).resp = s.resp := by unfold noteJobWrite; split <;> rfl
@[simp] theorem noteJobWrite_log (s : State) : (noteJobWrite s).log = s.log := by unfold noteJobWrite; split <;> rfl
@[simp] theorem noteJobWrite_mem (s : State) : (noteJobWrite s).mem = s.mem := by unfold noteJobWrite; split <;> rfl
@[simp] theorem noteJobWrite_schedule (s : State) : (noteJobWrite s).schedule = s.schedule := by unfold noteJobWrite; split <;> rfl
@[simp] theorem noteJobWrite_answers (s : State) : (noteJobWrite s).answers = s.answers := by unfold noteJobWrite; split <;> rfl
@[simp] theorem noteJobWrite_free (s : State) : (noteJobWrite s).free = s.free := by unfold noteJobWrite; split <;> rfl

/-- The mark of a RESET action: set if a job is in flight, kept otherwise. -/
theorem noteReset_marks (s : State) : (noteReset s).marks =
    { s.marks with resetInFlight := s.marks.resetInFlight || s.jobInFlight } := by
  unfold noteReset
  cases h : s.jobInFlight <;> simp

@[simp] theorem noteReset_regs (s : State) : (noteReset s).regs = s.regs := by unfold noteReset; split <;> rfl
@[simp] theorem noteReset_irqLine (s : State) : (noteReset s).irqLine = s.irqLine := by unfold noteReset; split <;> rfl
@[simp] theorem noteReset_eng (s : State) : (noteReset s).eng = s.eng := by unfold noteReset; split <;> rfl
@[simp] theorem noteReset_job (s : State) : (noteReset s).job = s.job := by unfold noteReset; split <;> rfl
@[simp] theorem noteReset_wakePending (s : State) : (noteReset s).wakePending = s.wakePending := by unfold noteReset; split <;> rfl
@[simp] theorem noteReset_resp (s : State) : (noteReset s).resp = s.resp := by unfold noteReset; split <;> rfl
@[simp] theorem noteReset_log (s : State) : (noteReset s).log = s.log := by unfold noteReset; split <;> rfl
@[simp] theorem noteReset_mem (s : State) : (noteReset s).mem = s.mem := by unfold noteReset; split <;> rfl
@[simp] theorem noteReset_schedule (s : State) : (noteReset s).schedule = s.schedule := by unfold noteReset; split <;> rfl
@[simp] theorem noteReset_answers (s : State) : (noteReset s).answers = s.answers := by unfold noteReset; split <;> rfl
@[simp] theorem noteReset_free (s : State) : (noteReset s).free = s.free := by unfold noteReset; split <;> rfl

/-! ### IRQ.EVAL (R182) -/

/-- The line takes the derived value. -/
@[simp] theorem irqEval_irqLine (s : State) : (irqEval s).irqLine = irqValue s.regs := by
  simp only [irqEval]; split <;> rfl

/-- An edge is recorded exactly when the line changes. -/
theorem irqEval_log (s : State) : (irqEval s).log =
    if irqValue s.regs = s.irqLine then s.log else s.log ++ [.edge (irqValue s.regs)] := by
  simp only [irqEval]
  by_cases h : irqValue s.regs = s.irqLine <;> simp [h]

@[simp] theorem irqEval_regs (s : State) : (irqEval s).regs = s.regs := by simp only [irqEval]; split <;> rfl
@[simp] theorem irqEval_eng (s : State) : (irqEval s).eng = s.eng := by simp only [irqEval]; split <;> rfl
@[simp] theorem irqEval_job (s : State) : (irqEval s).job = s.job := by simp only [irqEval]; split <;> rfl
@[simp] theorem irqEval_wakePending (s : State) : (irqEval s).wakePending = s.wakePending := by simp only [irqEval]; split <;> rfl
@[simp] theorem irqEval_marks (s : State) : (irqEval s).marks = s.marks := by simp only [irqEval]; split <;> rfl
@[simp] theorem irqEval_resp (s : State) : (irqEval s).resp = s.resp := by simp only [irqEval]; split <;> rfl
@[simp] theorem irqEval_mem (s : State) : (irqEval s).mem = s.mem := by simp only [irqEval]; split <;> rfl
@[simp] theorem irqEval_schedule (s : State) : (irqEval s).schedule = s.schedule := by simp only [irqEval]; split <;> rfl
@[simp] theorem irqEval_answers (s : State) : (irqEval s).answers = s.answers := by simp only [irqEval]; split <;> rfl
@[simp] theorem irqEval_free (s : State) : (irqEval s).free = s.free := by simp only [irqEval]; split <;> rfl

/-- Re-evaluating a line that already has its value changes nothing. -/
theorem irqEval_of_derived {s : State} (h : s.irqLine = irqValue s.regs) : irqEval s = s := by
  cases s
  simp_all [irqEval, State.setIrqLine]

/-! ### CTL.RESET (R162) -/

@[simp] theorem ctlReset_regs (s : State) : (ctlReset s).regs = RegFile.powerOn := by simp [ctlReset]

@[simp] theorem ctlReset_irqLine (s : State) : (ctlReset s).irqLine = false := by
  simp [ctlReset, irqValue, RegFile.powerOn]

theorem ctlReset_marks (s : State) : (ctlReset s).marks =
    { s.marks with resetInFlight := s.marks.resetInFlight || s.jobInFlight } := by
  simp [ctlReset, noteReset_marks]

theorem ctlReset_log (s : State) : (ctlReset s).log = if s.irqLine then s.log ++ [.edge false] else s.log := by
  simp only [ctlReset, irqEval_log]
  cases h : s.irqLine <;> simp [h, irqValue, RegFile.powerOn]

@[simp] theorem ctlReset_eng (s : State) : (ctlReset s).eng = s.eng := by simp [ctlReset]
@[simp] theorem ctlReset_job (s : State) : (ctlReset s).job = s.job := by simp [ctlReset]
@[simp] theorem ctlReset_wakePending (s : State) : (ctlReset s).wakePending = s.wakePending := by simp [ctlReset]
@[simp] theorem ctlReset_resp (s : State) : (ctlReset s).resp = s.resp := by simp [ctlReset]
@[simp] theorem ctlReset_mem (s : State) : (ctlReset s).mem = s.mem := by simp [ctlReset]
@[simp] theorem ctlReset_schedule (s : State) : (ctlReset s).schedule = s.schedule := by simp [ctlReset]
@[simp] theorem ctlReset_answers (s : State) : (ctlReset s).answers = s.answers := by simp [ctlReset]
@[simp] theorem ctlReset_free (s : State) : (ctlReset s).free = s.free := by simp [ctlReset]

/-! ### CTL.START (R163, R164) -/

/-- An accepted START. -/
theorem ctlStart_of_idle {s : State} (h : s.regs.status.getLsbD 0 = true) :
    ctlStart s = ((s.setStatus 0x00000002).setJob (capturedJob s.regs)).setWake true :=
  if_pos h

/-- A START while not idle. -/
theorem ctlStart_of_not_idle {s : State} (h : s.regs.status.getLsbD 0 = false) : ctlStart s = s :=
  if_neg (by rw [h]; exact Bool.false_ne_true)

@[simp] theorem ctlStart_irqLine (s : State) : (ctlStart s).irqLine = s.irqLine := by unfold ctlStart; split <;> rfl
@[simp] theorem ctlStart_eng (s : State) : (ctlStart s).eng = s.eng := by unfold ctlStart; split <;> rfl
@[simp] theorem ctlStart_marks (s : State) : (ctlStart s).marks = s.marks := by unfold ctlStart; split <;> rfl
@[simp] theorem ctlStart_resp (s : State) : (ctlStart s).resp = s.resp := by unfold ctlStart; split <;> rfl
@[simp] theorem ctlStart_log (s : State) : (ctlStart s).log = s.log := by unfold ctlStart; split <;> rfl
@[simp] theorem ctlStart_mem (s : State) : (ctlStart s).mem = s.mem := by unfold ctlStart; split <;> rfl
@[simp] theorem ctlStart_schedule (s : State) : (ctlStart s).schedule = s.schedule := by unfold ctlStart; split <;> rfl
@[simp] theorem ctlStart_answers (s : State) : (ctlStart s).answers = s.answers := by unfold ctlStart; split <;> rfl
@[simp] theorem ctlStart_free (s : State) : (ctlStart s).free = s.free := by unfold ctlStart; split <;> rfl

/-! ### The return to `P_WAIT` and power-on (R43, R300) -/

@[simp] theorem toWait_phase (s : State) : (toWait s).eng.phase = .wait := rfl

@[simp] theorem toWait_regs (s : State) : (toWait s).regs = s.regs := by rfl
@[simp] theorem toWait_irqLine (s : State) : (toWait s).irqLine = s.irqLine := by rfl
@[simp] theorem toWait_job (s : State) : (toWait s).job = s.job := by rfl
@[simp] theorem toWait_wakePending (s : State) : (toWait s).wakePending = s.wakePending := by rfl
@[simp] theorem toWait_marks (s : State) : (toWait s).marks = s.marks := by rfl
@[simp] theorem toWait_resp (s : State) : (toWait s).resp = s.resp := by rfl
@[simp] theorem toWait_log (s : State) : (toWait s).log = s.log := by rfl
@[simp] theorem toWait_mem (s : State) : (toWait s).mem = s.mem := by rfl
@[simp] theorem toWait_schedule (s : State) : (toWait s).schedule = s.schedule := by rfl
@[simp] theorem toWait_answers (s : State) : (toWait s).answers = s.answers := by rfl

@[simp] theorem powerOn_regs (s : State) : (powerOn s).regs = RegFile.powerOn := by simp [powerOn]

@[simp] theorem powerOn_irqLine (s : State) : (powerOn s).irqLine = false := by
  simp [powerOn, irqValue, RegFile.powerOn]

@[simp] theorem powerOn_phase (s : State) : (powerOn s).eng.phase = .wait := by simp [powerOn]

@[simp] theorem powerOn_wakePending (s : State) : (powerOn s).wakePending = false := by simp [powerOn]

@[simp] theorem powerOn_marks (s : State) : (powerOn s).marks = ⟨false, false⟩ := by simp [powerOn]

@[simp] theorem powerOn_resp (s : State) : (powerOn s).resp = s.resp := by simp [powerOn]
@[simp] theorem powerOn_mem (s : State) : (powerOn s).mem = s.mem := by simp [powerOn]
@[simp] theorem powerOn_schedule (s : State) : (powerOn s).schedule = s.schedule := by simp [powerOn]
@[simp] theorem powerOn_answers (s : State) : (powerOn s).answers = s.answers := by simp [powerOn]

/-! ### The DMA primitives (R202, R203) -/

/-- Everything `MemRead` can do: no answer, a failed request, or the bytes. -/
theorem memRead_cases (s : State) (addr : Ptr) (n : Nat) :
    (s.answers = [] ∧ memRead s addr n = none) ∨
    (∃ rest, s.answers = .fail :: rest ∧
      memRead s addr n = some (none, ((s.setAnswers rest).useFree 1).record (.dma .read addr n .fail))) ∨
    (∃ rest, s.answers = .success :: rest ∧
      memRead s addr n = some (some (readBytes s.free s.mem addr n),
        ((s.setAnswers rest).useFree 1).record (.dma .read addr n .success))) := by
  unfold memRead
  cases h : s.answers with
  | nil => exact .inl ⟨rfl, rfl⟩
  | cons a rest => cases a with
    | fail => exact .inr (.inl ⟨rest, rfl, rfl⟩)
    | success => exact .inr (.inr ⟨rest, rfl, rfl⟩)

/-- Everything `MemWrite` can do: no answer, a failed request with memory unchanged, or the whole write. -/
theorem memWrite_cases (s : State) (addr : Ptr) (v : List Byte) :
    (s.answers = [] ∧ memWrite s addr v = none) ∨
    (∃ rest, s.answers = .fail :: rest ∧
      memWrite s addr v = some (false, ((s.setAnswers rest).useFree 1).record (.dma .write addr v.length .fail))) ∨
    (∃ rest, s.answers = .success :: rest ∧
      memWrite s addr v = some (true,
        (((s.setMem (writeBytes s.free s.mem addr v)).setAnswers rest).useFree 1).record
          (.dma .write addr v.length .success))) := by
  unfold memWrite
  cases h : s.answers with
  | nil => exact .inl ⟨rfl, rfl⟩
  | cons a rest => cases a with
    | fail => exact .inr (.inl ⟨rest, rfl, rfl⟩)
    | success => exact .inr (.inr ⟨rest, rfl, rfl⟩)

/-! ### The product (R224) -/

/-- The product of n×n matrices has n*n elements. -/
@[simp] theorem matMul_length (n : Nat) (a b : List Word) : (matMul n a b).length = n * n := by
  simp [matMul, List.length_flatMap]

end Sys2Proof.Machine
end

