-- ==== Sys2Proof/Laws/Step.lean ====
section
/-!
SUPPORT. What one step can do: its turn, by the head of the schedule, and each engine operation, by its guard.
-/

namespace Sys2Proof.Machine

open Sys2Proof

/-- The engine operation is the one of the phase, and its guard holds. -/
theorem engineOp_cases {s : State} {i : Instr} (h : engineOp s = some i) :
    (i = .engStart ∧ s.eng.phase = .wait ∧ s.wakePending = true) ∨
    (i = .engRdA ∧ s.eng.phase = .rdA ∧ s.answers ≠ []) ∨
    (i = .engRdB ∧ s.eng.phase = .rdB ∧ s.answers ≠ []) ∨
    (i = .engCompute ∧ s.eng.phase = .compute) ∨
    (i = .engWrC ∧ s.eng.phase = .wrC ∧ s.answers ≠ []) ∨
    (i = .engDone ∧ s.eng.phase = .fin) ∨
    (i = .engError ∧ s.eng.phase = .fail) := by
  unfold engineOp at h
  split at h <;> simp_all

/-- Everything a step can be: the engine's operation or idling on an empty schedule, else the turn at its head. -/
theorem step_cases (s : State) :
    (s.schedule = [] ∧ ((engineOp s = none ∧ step s = .next s) ∨ (∃ i, engineOp s = some i ∧ step s = exec i s))) ∨
    (∃ t ts, s.schedule = .bus t :: ts ∧ step s = exec (decode t) (s.setSchedule ts)) ∨
    (∃ ts, s.schedule = .engine :: ts ∧
      ((engineOp s = none ∧ step s = .next (s.setSchedule ts)) ∨
       (∃ i, engineOp s = some i ∧ step s = exec i (s.setSchedule ts)))) ∨
    (∃ cs ts, s.schedule = .hostMem cs :: ts ∧ step s = .next ((s.setSchedule ts).setMem (hostChange s.mem cs))) ∨
    (∃ ts, s.schedule = .powerOn :: ts ∧ step s = exec .por (s.setSchedule ts)) := by
  unfold step fetch engineAction
  cases hs : s.schedule with
  | nil => cases he : engineOp s <;> simp
  | cons t ts => cases t with
    | bus t => simp
    | engine => cases he : engineOp s <;> simp
    | hostMem cs => simp
    | powerOn => simp

/-- ENG.START under its guard. -/
theorem execEngStart_next {s : State} (hp : s.eng.phase = .wait) (hw : s.wakePending = true) :
    execEngStart s = .next (((s.setWake false).setEngJob s.job).setPhase
      (if dimensionInvalid s.job.n then .fail else .rdA)) := by
  unfold execEngStart
  rw [if_pos ⟨hp, hw⟩]
  cases dimensionInvalid s.job.n <;> rfl

/-- ENG.RD_A under its guard, once the endpoint has answered. -/
theorem execEngRdA_cases {s : State} (hp : s.eng.phase = .rdA) :
    (s.answers = [] ∧ execEngRdA s = .fault (.noResponse "ENG.RD_A")) ∨
    (∃ rest u, s.answers = .fail :: rest ∧
      u = ((s.setAnswers rest).useFree 1).record (.dma .read s.eng.job.a (dmaLen s.eng.job.n) .fail) ∧
      execEngRdA s = .next (((u.setBufA (Config.freeBuffer u.free)).useFree 1).setPhase .fail)) ∨
    (∃ rest, s.answers = .success :: rest ∧
      execEngRdA s = .next ((((((s.setAnswers rest).useFree 1).record
        (.dma .read s.eng.job.a (dmaLen s.eng.job.n) .success)).setBufA
          (elemsOfBytes (readBytes s.free s.mem s.eng.job.a (dmaLen s.eng.job.n))))).setPhase .rdB)) := by
  unfold execEngRdA
  rw [if_pos hp]
  rcases memRead_cases s s.eng.job.a (dmaLen s.eng.job.n) with ⟨h, e⟩ | ⟨rest, h, e⟩ | ⟨rest, h, e⟩ <;> rw [e]
  · exact .inl ⟨h, rfl⟩
  · exact .inr (.inl ⟨rest, _, h, rfl, rfl⟩)
  · exact .inr (.inr ⟨rest, h, rfl⟩)

/-- ENG.RD_B under its guard, once the endpoint has answered. -/
theorem execEngRdB_cases {s : State} (hp : s.eng.phase = .rdB) :
    (s.answers = [] ∧ execEngRdB s = .fault (.noResponse "ENG.RD_B")) ∨
    (∃ rest u, s.answers = .fail :: rest ∧
      u = ((s.setAnswers rest).useFree 1).record (.dma .read s.eng.job.b (dmaLen s.eng.job.n) .fail) ∧
      execEngRdB s = .next (((u.setBufB (Config.freeBuffer u.free)).useFree 1).setPhase .fail)) ∨
    (∃ rest, s.answers = .success :: rest ∧
      execEngRdB s = .next ((((((s.setAnswers rest).useFree 1).record
        (.dma .read s.eng.job.b (dmaLen s.eng.job.n) .success)).setBufB
          (elemsOfBytes (readBytes s.free s.mem s.eng.job.b (dmaLen s.eng.job.n))))).setPhase .compute)) := by
  unfold execEngRdB
  rw [if_pos hp]
  rcases memRead_cases s s.eng.job.b (dmaLen s.eng.job.n) with ⟨h, e⟩ | ⟨rest, h, e⟩ | ⟨rest, h, e⟩ <;> rw [e]
  · exact .inl ⟨h, rfl⟩
  · exact .inr (.inl ⟨rest, _, h, rfl, rfl⟩)
  · exact .inr (.inr ⟨rest, h, rfl⟩)

/-- ENG.COMPUTE under its guard. -/
theorem execEngCompute_next {s : State} (hp : s.eng.phase = .compute) :
    execEngCompute s = .next ((s.setBufC (matMul s.eng.job.n.toNat s.eng.bufA s.eng.bufB)).setPhase .wrC) := by
  unfold execEngCompute
  rw [if_pos hp]

/-- ENG.WR_C under its guard, once the endpoint has answered. -/
theorem execEngWrC_cases {s : State} (hp : s.eng.phase = .wrC) :
    (s.answers = [] ∧ execEngWrC s = .fault (.noResponse "ENG.WR_C")) ∨
    (∃ rest, s.answers = .fail :: rest ∧
      execEngWrC s = .next ((((s.setAnswers rest).useFree 1).record
        (.dma .write s.eng.job.c (s.eng.bufC.length * 4) .fail)).setPhase .fail)) ∨
    (∃ rest, s.answers = .success :: rest ∧
      execEngWrC s = .next (((((s.setMem (writeBytes s.free s.mem s.eng.job.c (bytesOfElems s.eng.bufC))).setAnswers
        rest).useFree 1).record (.dma .write s.eng.job.c (s.eng.bufC.length * 4) .success)).setPhase .fin)) := by
  unfold execEngWrC
  rw [if_pos hp]
  rcases memWrite_cases s s.eng.job.c (bytesOfElems s.eng.bufC) with ⟨h, e⟩ | ⟨rest, h, e⟩ | ⟨rest, h, e⟩ <;> rw [e]
  · exact .inl ⟨h, rfl⟩
  · exact .inr (.inl ⟨rest, h, by simp only [bytesOfElems_length]; rfl⟩)
  · exact .inr (.inr ⟨rest, h, by simp only [bytesOfElems_length]⟩)

/-- ENG.DONE under its guard. -/
theorem execEngDone_next {s : State} (hp : s.eng.phase = .fin) : execEngDone s = .next (reportSuccess s) := if_pos hp

/-- ENG.ERROR under its guard. -/
theorem execEngError_next {s : State} (hp : s.eng.phase = .fail) : execEngError s = .next (reportFailure s) := if_pos hp

end Sys2Proof.Machine
end

