-- ==== Sys2Proof/Laws/Forms.lean ====
section
/-!
SUPPORT. The model's data assembly, predicates and marks in the reference forms of Safety.lean; which operations are bus
operations; and, for each engine operation, what a next state says of the state before it.
-/

namespace Sys2Proof.Machine

open Sys2Proof

/-! ### Data assembly (R92) -/

theorem bytesLe_four (v : Word) : bytesLe v.toNat 4 = fourBytes v := by
  simp only [bytesLe, fourBytes, List.cons.injEq, and_true]
  refine ⟨?_, ?_, ?_, ?_⟩ <;> apply BitVec.eq_of_toNat_eq <;>
    simp [BitVec.extractLsb'_toNat, Nat.shiftRight_eq_div_pow] <;> omega

theorem bytesLe_eight (p : Ptr) : bytesLe p.toNat 8 = eightBytes p := by
  simp only [bytesLe, eightBytes, fourBytes, List.cons_append, List.nil_append, List.cons.injEq, and_true]
  refine ⟨?_, ?_, ?_, ?_, ?_, ?_, ?_, ?_⟩ <;> apply BitVec.eq_of_toNat_eq <;>
    simp [BitVec.extractLsb'_toNat, Nat.shiftRight_eq_div_pow] <;> omega

theorem readData_eq (v : Word) (len : AccessLen) : readData v len = narrowData v len := by
  cases len
  · simp only [readData, AccessLen.bytes, narrowData]
    rw [← bytesLe_four]; congr 1
  · simp only [readData, AccessLen.bytes, narrowData, bytesLe, fourBytes, List.cons_append, List.nil_append,
      List.cons.injEq, and_true]
    have := v.isLt
    refine ⟨?_, ?_, ?_, ?_, ?_, ?_, ?_, ?_⟩ <;> apply BitVec.eq_of_toNat_eq <;>
      simp [BitVec.extractLsb'_toNat, Nat.shiftRight_eq_div_pow] <;> omega

theorem wdata_eq (d : WriteData) : wdata d = narrowValue d := by
  cases d with
  | four v => rfl
  | eight p => simp only [wdata, narrowValue]; apply BitVec.eq_of_toNat_eq; simp [BitVec.extractLsb'_toNat]

theorem loHalf_eq (p : Ptr) : loHalf p = p.extractLsb' 0 32 := by
  apply BitVec.eq_of_toNat_eq; simp [loHalf, BitVec.extractLsb'_toNat]

theorem hiHalf_eq (p : Ptr) : hiHalf p = p.extractLsb' 32 32 := by
  apply BitVec.eq_of_toNat_eq; simp [hiHalf, BitVec.extractLsb'_toNat]

/-! ### Predicates and marks -/

theorem jobInFlight_eq (s : State) : s.jobInFlight = (s.wakePending || decide (s.eng.phase ≠ .wait)) := by
  simp only [State.jobInFlight]
  cases s.eng.phase <;> rfl

theorem dimensionInvalid_iff (n : Word) : dimensionInvalid n = true ↔ n.toNat = 0 ∨ 256 < n.toNat := by
  unfold dimensionInvalid
  rw [Bool.or_eq_true, beq_iff_eq, decide_eq_true_iff]; rfl

theorem irqValue_eq (r : RegFile) : irqValue r = decide (r.intStatus &&& r.intEnable ≠ 0) := by
  simp [irqValue, bne, Bool.beq_eq_decide_eq]

/-- R30: where INT_STATUS is legal, the line's equation is that of the two bits 0. -/
theorem line_of_bits {x : Word} (h : IntStatusLegal x) (y : Word) :
    decide (x &&& y ≠ 0) = (x.getLsbD 0 && y.getLsbD 0) := by
  rcases h with rfl | rfl
  · simp
  · have one : (1 : Word) &&& y = if y.getLsbD 0 then 1 else 0 := by
      ext i hi
      by_cases h : i = 0
      · subst h; cases hy : y[0] <;> simp [hy]
      · cases hy : y.getLsbD 0 <;> simp [h]
    change decide ((1 : Word) &&& y ≠ 0) = ((1 : Word).getLsbD 0 && y.getLsbD 0)
    rw [one]
    cases h : y.getLsbD 0 <;> simp

/-- A mark recorded or kept, as one boolean (R147). -/
theorem noteJobWrite_eq (s : State) : noteJobWrite s = { s with marks := { s.marks with
    writeDuringBusy := s.marks.writeDuringBusy || s.wakePending || decide (s.eng.phase ≠ .wait) } } := by
  rw [Bool.or_assoc, ← jobInFlight_eq]
  unfold noteJobWrite; cases s.jobInFlight <;> simp [State.setMarks]

/-! ### Bus operations (R91, R93) -/

/-- The rows of format BUS. -/
def isBus : Instr → Bool
  | .engStart | .engRdA | .engRdB | .engCompute | .engWrC | .engDone | .engError => false
  | .ctlReset | .ctlStart | .irqEval | .por => false
  | _ => true

/-- A bus operation always completes. -/
theorem exec_of_isBus {i : Instr} (h : isBus i = true) (s : State) : ∃ u, exec i s = .next u := by
  cases i <;> first | exact ⟨_, rfl⟩ | cases h

theorem isBus_ite {p : Prop} [Decidable p] {a b : Instr} (ha : isBus a = true) (hb : isBus b = true) :
    isBus (if p then a else b) = true := by
  split <;> assumption

theorem decodeRead_isBus (m : RegMap) (a : Ptr) (l : AccessLen) : isBus (decodeRead m a l) = true := by
  cases l <;> (unfold decodeRead; dsimp only; repeat (first | rfl | apply isBus_ite))

theorem decodeWrite_isBus (m : RegMap) (a : Ptr) (d : WriteData) : isBus (decodeWrite m a d) = true := by
  cases d <;> (unfold decodeWrite decodeWriteHigh) <;> dsimp only <;> repeat (first | rfl | apply isBus_ite)

/-- The decoder answers bus operations only. -/
theorem decodeIn_isBus (m : RegMap) (t : Transaction) : isBus (decodeIn m t) = true := by
  cases t <;> (unfold decodeIn; dsimp only; split)
  all_goals first | rfl | exact decodeRead_isBus _ _ _ | exact decodeWrite_isBus _ _ _

/-! ### Runs -/

/-- Where no turn is listed, a run begins with the engine's enabled operation. -/
theorem runSteps_engine {s u : State} {i : Instr} (k : Nat) (hs : s.schedule = []) (ho : engineOp s = some i)
    (he : exec i s = .next u) : runSteps (k + 1) s = runSteps k u := by
  have : step s = .next u := by simp [step, fetch, engineAction, hs, ho, he]
  simp [runSteps, this]

/-! ### What a next state says: the engine operations (R221 to R228) -/

theorem execEngStart_inv {s u : State} (h : execEngStart s = .next u) :
    s.eng.phase = .wait ∧ s.wakePending = true ∧
    u = ((s.setWake false).setEngJob s.job).setPhase (if dimensionInvalid s.job.n then .fail else .rdA) := by
  by_cases hp : s.eng.phase = .wait ∧ s.wakePending = true
  · rw [execEngStart_next hp.1 hp.2] at h; cases h; exact ⟨hp.1, hp.2, rfl⟩
  · simp only [execEngStart] at h; rw [if_neg hp] at h; cases h

theorem execEngRdA_inv {s u : State} (h : execEngRdA s = .next u) : s.eng.phase = .rdA ∧
    ((∃ rest w, s.answers = .fail :: rest ∧
      w = ((s.setAnswers rest).useFree 1).record (.dma .read s.eng.job.a (dmaLen s.eng.job.n) .fail) ∧
      u = ((w.setBufA (Config.freeBuffer w.free)).useFree 1).setPhase .fail) ∨
    (∃ rest, s.answers = .success :: rest ∧
      u = ((((s.setAnswers rest).useFree 1).record
        (.dma .read s.eng.job.a (dmaLen s.eng.job.n) .success)).setBufA
          (elemsOfBytes (readBytes s.free s.mem s.eng.job.a (dmaLen s.eng.job.n)))).setPhase .rdB)) := by
  by_cases hp : s.eng.phase = .rdA
  · refine ⟨hp, ?_⟩
    rcases execEngRdA_cases hp with ⟨_, e⟩ | ⟨r, w, h1, h2, e⟩ | ⟨r, h1, e⟩ <;> rw [e] at h <;> cases h
    · exact .inl ⟨r, w, h1, h2, rfl⟩
    · exact .inr ⟨r, h1, rfl⟩
  · simp only [execEngRdA] at h; rw [if_neg hp] at h; cases h

theorem execEngRdB_inv {s u : State} (h : execEngRdB s = .next u) : s.eng.phase = .rdB ∧
    ((∃ rest w, s.answers = .fail :: rest ∧
      w = ((s.setAnswers rest).useFree 1).record (.dma .read s.eng.job.b (dmaLen s.eng.job.n) .fail) ∧
      u = ((w.setBufB (Config.freeBuffer w.free)).useFree 1).setPhase .fail) ∨
    (∃ rest, s.answers = .success :: rest ∧
      u = ((((s.setAnswers rest).useFree 1).record
        (.dma .read s.eng.job.b (dmaLen s.eng.job.n) .success)).setBufB
          (elemsOfBytes (readBytes s.free s.mem s.eng.job.b (dmaLen s.eng.job.n)))).setPhase .compute)) := by
  by_cases hp : s.eng.phase = .rdB
  · refine ⟨hp, ?_⟩
    rcases execEngRdB_cases hp with ⟨_, e⟩ | ⟨r, w, h1, h2, e⟩ | ⟨r, h1, e⟩ <;> rw [e] at h <;> cases h
    · exact .inl ⟨r, w, h1, h2, rfl⟩
    · exact .inr ⟨r, h1, rfl⟩
  · simp only [execEngRdB] at h; rw [if_neg hp] at h; cases h

theorem execEngCompute_inv {s u : State} (h : execEngCompute s = .next u) : s.eng.phase = .compute ∧
    u = (s.setBufC (matMul s.eng.job.n.toNat s.eng.bufA s.eng.bufB)).setPhase .wrC := by
  simp only [execEngCompute] at h; split at h <;> cases h; exact ⟨‹_›, rfl⟩

theorem execEngWrC_inv {s u : State} (h : execEngWrC s = .next u) : s.eng.phase = .wrC ∧
    ((∃ rest, s.answers = .fail :: rest ∧
      u = (((s.setAnswers rest).useFree 1).record
        (.dma .write s.eng.job.c (s.eng.bufC.length * 4) .fail)).setPhase .fail) ∨
    (∃ rest, s.answers = .success :: rest ∧
      u = ((((s.setMem (writeBytes s.free s.mem s.eng.job.c (bytesOfElems s.eng.bufC))).setAnswers
        rest).useFree 1).record (.dma .write s.eng.job.c (s.eng.bufC.length * 4) .success)).setPhase .fin)) := by
  by_cases hp : s.eng.phase = .wrC
  · refine ⟨hp, ?_⟩
    rcases execEngWrC_cases hp with ⟨_, e⟩ | ⟨r, h1, e⟩ | ⟨r, h1, e⟩ <;> rw [e] at h <;> cases h
    · exact .inl ⟨r, h1, rfl⟩
    · exact .inr ⟨r, h1, rfl⟩
  · simp only [execEngWrC] at h; rw [if_neg hp] at h; cases h

theorem execEngDone_inv {s u : State} (h : execEngDone s = .next u) : s.eng.phase = .fin ∧ u = reportSuccess s := by
  simp only [execEngDone] at h; split at h <;> cases h; exact ⟨‹_›, rfl⟩

theorem execEngError_inv {s u : State} (h : execEngError s = .next u) : s.eng.phase = .fail ∧ u = reportFailure s := by
  simp only [execEngError] at h; split at h <;> cases h; exact ⟨‹_›, rfl⟩

end Sys2Proof.Machine
end

