-- ==== Sys2Proof/Laws/PerInstr.lean ====
section
/-!
SUPPORT. Statements made per instruction. `EncodedLength`: the transaction of a well-formed operation has a legal length,
unless the operation is ACC.BADLEN, whose transaction has none (30_encoding R93, R98).
-/

namespace Sys2Proof.Laws.EncodedLength

open Sys2Proof

/-- The operation is ACC.BADLEN. -/
def isRejection : Instr → Bool
  | .accBadlen _ => true
  | _ => false

/-- The length of an operation's transaction is illegal exactly for ACC.BADLEN. -/
def Statement (i : Instr) : Prop :=
  i.wellFormed = true → ∀ t, encode i = some t → illegalLength t.len = isRejection i

theorem len_bytes_legal (len : AccessLen) : illegalLength len.bytes = false := by cases len <;> rfl

theorem data_bytes_legal (d : WriteData) : illegalLength d.bytes.length = false := by
  cases d <;> simp [WriteData.bytes, illegalLength]

theorem accBadlen (t : Transaction) : Statement (.accBadlen t) := by
  intro h u hu
  cases hu
  exact h

theorem rdControl (len : AccessLen) : Statement (.rdControl len) := by
  rintro - u hu
  cases hu
  exact len_bytes_legal len

theorem wrControl (data : WriteData) : Statement (.wrControl data) := by
  rintro - u hu
  cases hu
  exact data_bytes_legal data

theorem rdStatus (len : AccessLen) : Statement (.rdStatus len) := by
  rintro - u hu
  cases hu
  exact len_bytes_legal len

theorem wrStatus (data : WriteData) : Statement (.wrStatus data) := by
  rintro - u hu
  cases hu
  exact data_bytes_legal data

theorem rdDimN (len : AccessLen) : Statement (.rdDimN len) := by
  rintro - u hu
  cases hu
  exact len_bytes_legal len

theorem wrDimN (data : WriteData) : Statement (.wrDimN data) := by
  rintro - u hu
  cases hu
  exact data_bytes_legal data

theorem rdAPtr : Statement .rdAPtr := by
  rintro - u hu
  cases hu
  rfl

theorem rdAPtrLo : Statement .rdAPtrLo := by
  rintro - u hu
  cases hu
  rfl

theorem rdAPtrHi : Statement .rdAPtrHi := by
  rintro - u hu
  cases hu
  rfl

theorem wrAPtr (wdata64 : Ptr) : Statement (.wrAPtr wdata64) := by
  rintro - u hu
  cases hu
  simp [Transaction.len, illegalLength, isRejection]

theorem wrAPtrLo (wdata : Word) : Statement (.wrAPtrLo wdata) := by
  rintro - u hu
  cases hu
  simp [Transaction.len, illegalLength, isRejection]

theorem wrAPtrHi (wdata : Word) : Statement (.wrAPtrHi wdata) := by
  rintro - u hu
  cases hu
  simp [Transaction.len, illegalLength, isRejection]

theorem rdBPtr : Statement .rdBPtr := by
  rintro - u hu
  cases hu
  rfl

theorem rdBPtrLo : Statement .rdBPtrLo := by
  rintro - u hu
  cases hu
  rfl

theorem rdBPtrHi : Statement .rdBPtrHi := by
  rintro - u hu
  cases hu
  rfl

theorem wrBPtr (wdata64 : Ptr) : Statement (.wrBPtr wdata64) := by
  rintro - u hu
  cases hu
  simp [Transaction.len, illegalLength, isRejection]

theorem wrBPtrLo (wdata : Word) : Statement (.wrBPtrLo wdata) := by
  rintro - u hu
  cases hu
  simp [Transaction.len, illegalLength, isRejection]

theorem wrBPtrHi (wdata : Word) : Statement (.wrBPtrHi wdata) := by
  rintro - u hu
  cases hu
  simp [Transaction.len, illegalLength, isRejection]

theorem rdCPtr : Statement .rdCPtr := by
  rintro - u hu
  cases hu
  rfl

theorem rdCPtrLo : Statement .rdCPtrLo := by
  rintro - u hu
  cases hu
  rfl

theorem rdCPtrHi : Statement .rdCPtrHi := by
  rintro - u hu
  cases hu
  rfl

theorem wrCPtr (wdata64 : Ptr) : Statement (.wrCPtr wdata64) := by
  rintro - u hu
  cases hu
  simp [Transaction.len, illegalLength, isRejection]

theorem wrCPtrLo (wdata : Word) : Statement (.wrCPtrLo wdata) := by
  rintro - u hu
  cases hu
  simp [Transaction.len, illegalLength, isRejection]

theorem wrCPtrHi (wdata : Word) : Statement (.wrCPtrHi wdata) := by
  rintro - u hu
  cases hu
  simp [Transaction.len, illegalLength, isRejection]

theorem rdIntStatus (len : AccessLen) : Statement (.rdIntStatus len) := by
  rintro - u hu
  cases hu
  exact len_bytes_legal len

theorem wrIntStatus (data : WriteData) : Statement (.wrIntStatus data) := by
  rintro - u hu
  cases hu
  exact data_bytes_legal data

theorem rdIntEnable (len : AccessLen) : Statement (.rdIntEnable len) := by
  rintro - u hu
  cases hu
  exact len_bytes_legal len

theorem wrIntEnable (data : WriteData) : Statement (.wrIntEnable data) := by
  rintro - u hu
  cases hu
  exact data_bytes_legal data

theorem rdUndef (addr : Ptr) (len : AccessLen) : Statement (.rdUndef addr len) := by
  rintro - u hu
  cases hu
  exact len_bytes_legal len

theorem wrUndef (addr : Ptr) (data : WriteData) : Statement (.wrUndef addr data) := by
  rintro - u hu
  cases hu
  exact data_bytes_legal data

theorem engStart : Statement .engStart := by
  rintro - u hu
  cases hu

theorem engRdA : Statement .engRdA := by
  rintro - u hu
  cases hu

theorem engRdB : Statement .engRdB := by
  rintro - u hu
  cases hu

theorem engCompute : Statement .engCompute := by
  rintro - u hu
  cases hu

theorem engWrC : Statement .engWrC := by
  rintro - u hu
  cases hu

theorem engDone : Statement .engDone := by
  rintro - u hu
  cases hu

theorem engError : Statement .engError := by
  rintro - u hu
  cases hu

theorem ctlReset : Statement .ctlReset := by
  rintro - u hu
  cases hu

theorem ctlStart : Statement .ctlStart := by
  rintro - u hu
  cases hu

theorem irqEval : Statement .irqEval := by
  rintro - u hu
  cases hu

theorem por : Statement .por := by
  rintro - u hu
  cases hu

end Sys2Proof.Laws.EncodedLength
end

