-- ==== Sys2Proof/Tests/Slice0.lean ====
section
/-!
SUPPORT. Tests: ill-formed terms, decode of tuples written out from 95_test_vectors, single steps with the results of its
vectors, and for every statement with hypotheses a concrete state and operands that meet them. Offsets: decision D1.
-/

namespace Sys2Proof.Tests

open Sys2Proof Sys2Proof.Machine

/-! ## Helpers -/

/-- Whether an outcome is a next state with a property. -/
def nextHas (o : Host.Outcome State Fault Refusal) (p : State → Bool) : Bool :=
  match o with
  | .next u => p u
  | .fault _ => false
  | .refused _ => false

/-- The device after power-on, with other registers. -/
def withRegs (r : RegFile) : State := { State.reset with regs := r }

/-- A job of dimension 1 with the buffers of V31, in a phase, STATUS BUSY, with the endpoint's verdicts. -/
def inPhase (p : Phase) (as : List Answer) : State :=
  { State.reset with
    regs := { RegFile.powerOn with status := 0x00000002 }
    eng := ⟨p, ⟨1, 0x1000, 0x2000, 0x3000⟩, [0x40400000], [0x40800000], [0x41400000]⟩
    answers := as
    mem := [(0x1002, 0x40), (0x1003, 0x40), (0x2002, 0x80), (0x2003, 0x40), (0x3002, 0x80), (0x3003, 0xBF)] }

/-- A job accepted and not yet taken by the engine. -/
def accepted (n : Word) (as : List Answer) : State :=
  { State.reset with
    regs := { RegFile.powerOn with status := 0x00000002 }
    job := ⟨n, 0x1000, 0x2000, 0x3000⟩
    wakePending := true
    answers := as }

/-- The start state of V17: a completed job not acknowledged, its interrupt enabled. -/
def finished : State :=
  { withRegs ⟨0x1, 0x5, 0x4, 0x1000, 0x2000, 0x3000, 0x1, 0x1⟩ with irqLine := true, log := [.edge true] }

/-! ## Well-formedness (R97, R98): each check refuses an ill-formed term -/

/-- ACC.BADLEN of a legal length is no operation. -/
theorem test_ill_formed_badlen : (Instr.accBadlen (.read 0x04 4)).wellFormed = false ∧
    (Instr.accBadlen (.write 0x00 [1, 0, 0, 0, 0, 0, 0, 0])).wellFormed = false ∧
    (Instr.accBadlen (.read 0x04 2)).wellFormed = true := by decide

/-- RD.UNDEF of a register, of a pointer, and of the half of one. -/
theorem test_ill_formed_rdUndef : (Instr.rdUndef 0x28 .four).wellFormed = false ∧
    (Instr.rdUndef 0x18 .eight).wellFormed = false ∧ (Instr.rdUndef 0x1C .four).wellFormed = false ∧
    (Instr.rdUndef 0x1C .eight).wellFormed = true := by decide

/-- WR.UNDEF of the same. -/
theorem test_ill_formed_wrUndef : (Instr.wrUndef 0x08 (.four 1)).wellFormed = false ∧
    (Instr.wrUndef 0x10 (.four 1)).wellFormed = false ∧ (Instr.wrUndef 0x24 (.four 1)).wellFormed = false ∧
    (Instr.wrUndef 0x24 (.eight 1)).wellFormed = true := by decide

/-- The default map meets R61's condition. -/
theorem test_default_map_acceptable : Config.regMap.Acceptable := by decide

/-! ## Decode: tuples of R90 written out from R96 and 95_test_vectors -/

/-- CONTROL (V15, V20). -/
theorem test_decode_control : decode (.read 0x00 4) = .rdControl .four ∧
    decode (.write 0x00 [0x01, 0x00, 0x00, 0x00]) = .wrControl (.four 0x00000001) ∧
    decode (.write 0x00 [0x00, 0x00, 0x00, 0x00, 0xEF, 0xBE, 0xAD, 0xDE]) = .wrControl (.eight 0xDEADBEEF00000000) := by
  decide

/-- STATUS and DIM_N (V1, V2, V3, V10). -/
theorem test_decode_status_dim : decode (.read 0x04 4) = .rdStatus .four ∧ decode (.read 0x04 8) = .rdStatus .eight ∧
    decode (.write 0x04 [0xFF, 0xFF, 0xFF, 0xFF]) = .wrStatus (.four 0xFFFFFFFF) ∧
    decode (.read 0x08 4) = .rdDimN .four ∧
    decode (.write 0x08 [0x07, 0x00, 0x00, 0x00]) = .wrDimN (.four 0x00000007) := by decide

/-- MATRIX_A_PTR (V9). -/
theorem test_decode_a_ptr : decode (.read 0x10 8) = .rdAPtr ∧ decode (.read 0x10 4) = .rdAPtrLo ∧
    decode (.read 0x14 4) = .rdAPtrHi ∧
    decode (.write 0x10 [0x88, 0x77, 0x66, 0x55, 0x44, 0x33, 0x22, 0x11]) = .wrAPtr 0x1122334455667788 ∧
    decode (.write 0x10 [0xDD, 0xCC, 0xBB, 0xAA]) = .wrAPtrLo 0xAABBCCDD ∧
    decode (.write 0x14 [0x04, 0x03, 0x02, 0x01]) = .wrAPtrHi 0x01020304 := by decide

/-- MATRIX_B_PTR (V5 to V8). -/
theorem test_decode_b_ptr : decode (.read 0x18 8) = .rdBPtr ∧ decode (.read 0x18 4) = .rdBPtrLo ∧
    decode (.read 0x1C 4) = .rdBPtrHi ∧
    decode (.write 0x18 [0x88, 0x77, 0x66, 0x55, 0x44, 0x33, 0x22, 0x11]) = .wrBPtr 0x1122334455667788 ∧
    decode (.write 0x18 [0xDD, 0xCC, 0xBB, 0xAA]) = .wrBPtrLo 0xAABBCCDD ∧
    decode (.write 0x1C [0x04, 0x03, 0x02, 0x01]) = .wrBPtrHi 0x01020304 := by decide

/-- MATRIX_C_PTR (V9, V46). -/
theorem test_decode_c_ptr : decode (.read 0x20 8) = .rdCPtr ∧ decode (.read 0x20 4) = .rdCPtrLo ∧
    decode (.read 0x24 4) = .rdCPtrHi ∧
    decode (.write 0x20 [0x88, 0x77, 0x66, 0x55, 0x44, 0x33, 0x22, 0x11]) = .wrCPtr 0x1122334455667788 ∧
    decode (.write 0x20 [0x00, 0x40, 0x00, 0x00]) = .wrCPtrLo 0x00004000 ∧
    decode (.write 0x24 [0x04, 0x03, 0x02, 0x01]) = .wrCPtrHi 0x01020304 := by decide

/-- INT_STATUS and INT_ENABLE (V24, V25, V11). -/
theorem test_decode_interrupt : decode (.read 0x28 4) = .rdIntStatus .four ∧
    decode (.write 0x28 [0x01, 0x00, 0x00, 0x00]) = .wrIntStatus (.four 0x00000001) ∧
    decode (.write 0x2C [0xFF, 0xFF, 0xFF, 0xFF]) = .wrIntEnable (.four 0xFFFFFFFF) ∧
    decode (.read 0x2C 4) = .rdIntEnable .four ∧ decode (.read 0x2C 8) = .rdIntEnable .eight := by decide

/-- Undefined addresses and illegal lengths (V11, V12, V13, V42). -/
theorem test_decode_fall_through : decode (.read 0x0C 4) = .rdUndef 0x0C .four ∧
    decode (.read 0x02 4) = .rdUndef 0x02 .four ∧ decode (.read 0x100000000 4) = .rdUndef 0x100000000 .four ∧
    decode (.read 0x14 8) = .rdUndef 0x14 .eight ∧
    decode (.write 0x30 [0x78, 0x56, 0x34, 0x12]) = .wrUndef 0x30 (.four 0x12345678) ∧
    decode (.write 0x00 [0x02, 0x00]) = .accBadlen (.write 0x00 [0x02, 0x00]) ∧
    decode (.read 0x0C 2) = .accBadlen (.read 0x0C 2) ∧ decode (.read 0x00 16) = .accBadlen (.read 0x00 16) := by decide

/-- An operation of format ENG, SUB or EVT has no tuple (R91). -/
theorem test_no_encoding : encodeIn Config.regMap .engStart = none ∧ encodeIn Config.regMap .ctlReset = none ∧
    encodeIn Config.regMap .irqEval = none ∧ encodeIn Config.regMap .por = none := by decide

/-- The byte descriptor (log 1): an address alone is a 4-byte read; direction 1 and biased length 0 a 4-byte write. -/
theorem test_descriptor : decodeTableWord 64 0x04 = some (.rdStatus .four) ∧
    decodeTableWord 64 0x24 = some .rdCPtrHi ∧
    decodeTableWord 112 0x000000070001_0000000000000008 = some (.wrDimN (.four 7)) ∧
    decodeTableWord 80 0x0400_0000000000000004 = some (.rdStatus .eight) ∧
    decodeTableWord 80 0x0002_0000000000000004 = none := by decide

/-- A placed word is the next step (V1). -/
theorem test_fetch_word : nextHas (step (State.reset.withFetchWord 64 0x04)) (fun u =>
    u.resp = some ⟨.ok, [0x01, 0x00, 0x00, 0x00]⟩ ∧ u.schedule = []) = true := by decide

/-! ## Register access (V1 to V14) -/

/-- V2: the read of STATUS with length 8 is zero-extended and does not return DIM_N. -/
theorem test_rdStatus_eight : nextHas (exec (.rdStatus .eight) (withRegs ⟨0, 1, 7, 0, 0, 0, 0, 0⟩)) (fun u =>
    u.resp = some ⟨.ok, [0x01, 0, 0, 0, 0, 0, 0, 0]⟩) = true := by decide

/-- V3: DIM_N reads back all ones. -/
theorem test_rdDimN : nextHas (exec (.rdDimN .four) (withRegs ⟨0, 1, 0xFFFFFFFF, 0, 0, 0, 0, 0⟩)) (fun u =>
    u.resp = some ⟨.ok, [0xFF, 0xFF, 0xFF, 0xFF]⟩) = true := by decide

/-- V4: bytes 4 to 7 of an 8-byte write are ignored. -/
theorem test_wrDimN_eight : nextHas (exec (.wrDimN (.eight 0xAAAAAAAA00000009)) (withRegs ⟨0, 1, 7, 0, 0, 0, 0, 0⟩))
    (fun u => u.regs = ⟨0, 1, 9, 0, 0, 0, 0, 0⟩) = true := by decide

/-- V46: a job register written during a job takes the value and leaves the mark, the latch as captured. -/
theorem test_wrDimN_during_job : nextHas (exec (.wrDimN (.four 2)) (accepted 1 [])) (fun u =>
    u.regs.dimN = 2 ∧ u.job.n = 1 ∧ u.marks = ⟨true, false⟩) = true := by decide

/-- V5, V6, V7 on B, and the same on A and C (V9). -/
theorem test_pointer_writes :
    nextHas (exec (.wrBPtrLo 0xAABBCCDD) (withRegs ⟨0, 1, 0, 0, 0x1122334455667788, 0, 0, 0⟩)) (fun u =>
      u.regs = ⟨0, 1, 0, 0, 0x11223344AABBCCDD, 0, 0, 0⟩) = true ∧
    nextHas (exec (.wrBPtrHi 0x01020304) (withRegs ⟨0, 1, 0, 0, 0x11223344AABBCCDD, 0, 0, 0⟩)) (fun u =>
      u.regs = ⟨0, 1, 0, 0, 0x01020304AABBCCDD, 0, 0, 0⟩) = true ∧
    nextHas (exec (.wrAPtrHi 0x01020304) (withRegs ⟨0, 1, 0, 0x11223344AABBCCDD, 0, 0, 0, 0⟩)) (fun u =>
      u.regs = ⟨0, 1, 0, 0x01020304AABBCCDD, 0, 0, 0, 0⟩) = true ∧
    nextHas (exec (.wrCPtrLo 0xAABBCCDD) (withRegs ⟨0, 1, 0, 0, 0, 0x1122334455667788, 0, 0⟩)) (fun u =>
      u.regs = ⟨0, 1, 0, 0, 0, 0x11223344AABBCCDD, 0, 0⟩) = true := by decide

/-- V8: the three reads of a pointer. -/
theorem test_pointer_reads :
    nextHas (exec .rdBPtr (withRegs ⟨0, 1, 0, 0, 0x01020304AABBCCDD, 0, 0, 0⟩)) (fun u =>
      u.resp = some ⟨.ok, [0xDD, 0xCC, 0xBB, 0xAA, 0x04, 0x03, 0x02, 0x01]⟩) = true ∧
    nextHas (exec .rdBPtrLo (withRegs ⟨0, 1, 0, 0, 0x01020304AABBCCDD, 0, 0, 0⟩)) (fun u =>
      u.resp = some ⟨.ok, [0xDD, 0xCC, 0xBB, 0xAA]⟩) = true ∧
    nextHas (exec .rdBPtrHi (withRegs ⟨0, 1, 0, 0, 0x01020304AABBCCDD, 0, 0, 0⟩)) (fun u =>
      u.resp = some ⟨.ok, [0x04, 0x03, 0x02, 0x01]⟩) = true ∧
    nextHas (exec .rdAPtr (withRegs ⟨0, 1, 0, 0, 0x01020304AABBCCDD, 0, 0, 0⟩)) (fun u =>
      u.resp = some ⟨.ok, [0, 0, 0, 0, 0, 0, 0, 0]⟩) = true := by decide

/-- V10: a write to STATUS changes no register and is logged. -/
theorem test_wrStatus : nextHas (exec (.wrStatus (.four 0xFFFFFFFF)) finished) (fun u =>
    u.regs = finished.regs ∧ u.resp = some ⟨.ok, []⟩ ∧ u.log = [.edge true, .warnReadOnly]) = true := by decide

/-- V11, V12: an undefined address answers `OK` and changes no register. -/
theorem test_undefined :
    nextHas (exec (.rdUndef 0x0C .four) finished) (fun u =>
      u.regs = finished.regs ∧ u.resp.map (·.status) = some .ok) = true ∧
    nextHas (exec (.wrUndef 0x24 (.eight 0xFFFFFFFFFFFFFFFF)) finished) (fun u =>
      u.regs = finished.regs ∧ u.resp = some ⟨.ok, []⟩) = true := by decide

/-- V13: a 2-byte write of 2 to CONTROL is no reset. -/
theorem test_badlen : nextHas (exec (decode (.write 0x00 [0x02, 0x00])) finished) (fun u =>
    u.regs = finished.regs ∧ u.irqLine = true ∧ u.resp = some ⟨.genericError, []⟩) = true := by decide

/-- V14: reading INT_STATUS does not clear it. -/
theorem test_rdIntStatus : nextHas (exec (.rdIntStatus .four) finished) (fun u =>
    u.resp = some ⟨.ok, [0x01, 0, 0, 0]⟩ ∧ u.regs = finished.regs ∧ u.irqLine = true) = true := by decide

/-- V25: INT_ENABLE reads back all ones, zero-extended. -/
theorem test_rdIntEnable : nextHas (exec (.rdIntEnable .eight) (withRegs ⟨0, 1, 0, 0, 0, 0, 0, 0xFFFFFFFF⟩)) (fun u =>
    u.resp = some ⟨.ok, [0xFF, 0xFF, 0xFF, 0xFF, 0, 0, 0, 0]⟩) = true := by decide

/-! ## CONTROL (V15 to V22) -/

/-- V15: START from idle. -/
theorem test_start : nextHas (exec (.wrControl (.four 1)) (withRegs ⟨0, 1, 4, 0x1000, 0x2000, 0x3000, 0, 0⟩)) (fun u =>
    u.regs = ⟨1, 2, 4, 0x1000, 0x2000, 0x3000, 0, 0⟩ ∧ u.job = ⟨4, 0x1000, 0x2000, 0x3000⟩ ∧
    u.wakePending = true ∧ u.eng.phase = .wait) = true := by decide

/-- V18: RESET wins over START, and CONTROL reads 0. -/
theorem test_reset_and_start : nextHas (exec (.wrControl (.four 3)) (withRegs ⟨0, 1, 9, 0, 0, 0, 0, 0xFFFFFFFF⟩))
    (fun u => u.regs = ⟨0, 1, 0, 0, 0, 0, 0, 0⟩ ∧ u.wakePending = false) = true := by decide

/-- V19: the unnamed bits of CONTROL are stored and do nothing. -/
theorem test_rdControl : nextHas (exec (.rdControl .four) (withRegs ⟨0xFFFFFFFC, 1, 0, 0, 0, 0, 0, 0⟩)) (fun u =>
    u.resp = some ⟨.ok, [0xFC, 0xFF, 0xFF, 0xFF]⟩) = true := by decide

/-- V17: RESET lowers the line in the same step, and records no mark where no job is in flight. -/
theorem test_ctlReset : nextHas (exec .ctlReset finished) (fun u =>
    u.regs = RegFile.powerOn ∧ u.irqLine = false ∧ u.log = [.edge true, .edge false] ∧ u.marks = ⟨false, false⟩) = true := by
  decide

/-- V22: START from idle with a result clears DONE and keeps INT_STATUS and the line. -/
theorem test_ctlStart : nextHas (exec .ctlStart finished) (fun u =>
    u.regs.status = 2 ∧ u.regs.intStatus = 1 ∧ u.irqLine = true) = true := by decide

/-! ## Interrupts (V23 to V29) -/

/-- V24: ones clear, zeros do not, and no write sets a bit. -/
theorem test_wrIntStatus :
    nextHas (exec (.wrIntStatus (.four 0xFFFFFFFE)) finished) (fun u => u.regs.intStatus = 1 ∧ u.irqLine = true) = true ∧
    nextHas (exec (.wrIntStatus (.eight 0xFFFFFFFF00000000)) finished) (fun u => u.regs.intStatus = 1) = true ∧
    nextHas (exec (.wrIntStatus (.four 0xFFFFFFFF)) finished) (fun u => u.regs.intStatus = 0 ∧ u.irqLine = false) = true ∧
    nextHas (exec (.wrIntStatus (.four 1)) State.reset) (fun u => u.regs.intStatus = 0) = true := by decide

/-- V26, V27: enabling with a completion pending raises the line; bits other than bit 0 do nothing. -/
theorem test_wrIntEnable :
    nextHas (exec (.wrIntEnable (.four 1)) (withRegs ⟨0, 5, 0, 0, 0, 0, 1, 0⟩)) (fun u =>
      u.irqLine = true ∧ u.log = [.edge true]) = true ∧
    nextHas (exec (.wrIntEnable (.four 0xFFFFFFFE)) (withRegs ⟨0, 5, 0, 0, 0, 0, 1, 0⟩)) (fun u =>
      u.irqLine = false ∧ u.regs.intEnable = 0xFFFFFFFE) = true := by decide

/-- V23, two rows of the table. -/
theorem test_irqEval :
    nextHas (exec .irqEval (withRegs ⟨0, 5, 0, 0, 0, 0, 1, 0xFFFFFFFF⟩)) (fun u => u.irqLine = true) = true ∧
    nextHas (exec .irqEval (withRegs ⟨0, 5, 0, 0, 0, 0, 1, 0xFFFFFFFE⟩)) (fun u => u.irqLine = false) = true := by decide

/-! ## The engine (V28 to V34) -/

/-- V34: the boundaries of the dimension test, unsigned. -/
theorem test_engStart :
    nextHas (exec .engStart (accepted 0 [])) (fun u => u.eng.phase = .fail) = true ∧
    nextHas (exec .engStart (accepted 1 [])) (fun u => u.eng.phase = .rdA ∧ u.wakePending = false) = true ∧
    nextHas (exec .engStart (accepted 256 [])) (fun u => u.eng.phase = .rdA) = true ∧
    nextHas (exec .engStart (accepted 257 [])) (fun u => u.eng.phase = .fail) = true ∧
    nextHas (exec .engStart (accepted 0x80000000 [])) (fun u => u.eng.phase = .fail) = true := by decide

/-- V30, R62: the read of A fills its buffer with the word at 0x1000, 3.0. -/
theorem test_engRdA : nextHas (exec .engRdA (inPhase .rdA [.success])) (fun u =>
    u.eng.bufA = [0x40400000] ∧ u.eng.phase = .rdB ∧ u.log = [.dma .read 0x1000 4 .success]) = true := by decide

/-- V31: the read of A fails. -/
theorem test_engRdA_fail : nextHas (exec .engRdA (inPhase .rdA [.fail])) (fun u =>
    u.eng.phase = .fail ∧ u.regs.status = 2 ∧ u.log = [.dma .read 0x1000 4 .fail]) = true := by decide

/-- V32: B is read at its own address. -/
theorem test_engRdB : nextHas (exec .engRdB (inPhase .rdB [.success])) (fun u =>
    u.eng.bufB = [0x40800000] ∧ u.eng.phase = .compute ∧ u.log = [.dma .read 0x2000 4 .success]) = true := by decide

/-- V33: 3.0 times 4.0 is written as 00 00 40 41, over the word at 0x3000. -/
theorem test_engWrC : nextHas (exec .engWrC (inPhase .wrC [.success])) (fun u =>
    readByte u.mem 0x3002 = 0x40 ∧ readByte u.mem 0x3003 = 0x41 ∧ readByte u.mem 0x3000 = 0 ∧ u.regs.status = 2 ∧
    Memory.wf u.mem) = true := by decide

/-- V33: a failed write changes no byte. -/
theorem test_engWrC_fail : nextHas (exec .engWrC (inPhase .wrC [.fail])) (fun u =>
    u.mem = (inPhase .wrC []).mem ∧ u.eng.phase = .fail) = true := by decide

/-- V28: completion with the interrupt enabled. -/
theorem test_engDone : nextHas (exec .engDone { inPhase .fin [] with regs := ⟨1, 2, 1, 0, 0, 0, 0, 1⟩ }) (fun u =>
    u.regs = ⟨1, 5, 1, 0, 0, 0, 1, 1⟩ ∧ u.irqLine = true ∧ u.eng.phase = .wait) = true := by decide

/-- V43: no interrupt on failure. -/
theorem test_engError : nextHas (exec .engError { inPhase .fail [] with regs := ⟨1, 2, 1, 0, 0, 0, 0, 1⟩ }) (fun u =>
    u.regs = ⟨1, 9, 1, 0, 0, 0, 0, 1⟩ ∧ u.irqLine = false ∧ u.eng.phase = .wait) = true := by decide

/-- V45, R300: power-on. -/
theorem test_por : nextHas (exec .por { finished with marks := ⟨true, true⟩, wakePending := true }) (fun u =>
    u.regs = RegFile.powerOn ∧ u.irqLine = false ∧ u.marks = ⟨false, false⟩ ∧ u.wakePending = false) = true := by decide

/-! ## Arithmetic (V35 to V40) -/

/-- V35: a 2 by 2 product. -/
theorem test_product : matMul 2 [0x3F800000, 0x40000000, 0x40400000, 0x40800000]
    [0x40A00000, 0x40C00000, 0x40E00000, 0x41000000] = [0x41980000, 0x41B00000, 0x422C0000, 0x42480000] := by
  decide +kernel

/-- V36: the order of accumulation, and ties to even. -/
theorem test_accumulation_order :
    dotProduct 3 [0x4B800000, 0x3F800000, 0x3F800000] [0x3F800000, 0, 0, 0x3F800000, 0, 0, 0x3F800000, 0, 0] 0 0
      = 0x4B800000 ∧
    dotProduct 3 [0x3F800000, 0x3F800000, 0x4B800000] [0x3F800000, 0, 0, 0x3F800000, 0, 0, 0x3F800000, 0, 0] 0 0
      = 0x4B800001 ∧
    dotProduct 3 [0x3DCCCCCD, 0x3E4CCCCD, 0x3E99999A] [0x3F800000, 0, 0, 0x3F800000, 0, 0, 0x3F800000, 0, 0] 0 0
      = 0x3F19999A := by
  decide +kernel

/-- V37: the product is rounded before the add (no fused multiply-add). -/
theorem test_no_fused : matMul 2 [0x3F800800, 0xBF801000, 0, 0] [0x3F800800, 0, 0x3F800000, 0] = [0, 0, 0, 0] := by
  decide +kernel

/-- V38, V40: a subnormal result is kept, and no result is -0.0. -/
theorem test_subnormal_and_zero : matMul 1 [0x0DA24260] [0x2EDBE6FF] = [0x000116C2] ∧
    matMul 1 [0x80000000] [0x40A00000] = [0] := by
  decide +kernel

/-- V39: overflow and infinities. -/
theorem test_overflow : matMul 2 [0x7F61B1E6, 0x7F61B1E6, 0x7F800000, 0] [0x40000000, 0xBF800000, 0x40000000, 0x3F800000]
    = [0x7F800000, 0, 0x7F800000, 0xFF800000] := by
  decide +kernel

/-! ## Witnesses: states and operands that meet the hypotheses of each statement -/

/-- DecodeOfEncodeIsTheOperation, under the default map and under one with other offsets. -/
theorem test_witness_decode_of_encode :
    (Config.regMap.Acceptable ∧ Instr.rdAPtrHi.wellFormedIn Config.regMap = true ∧
      encodeIn Config.regMap .rdAPtrHi = some (.read 0x14 4)) ∧
    (RegMap.Acceptable ⟨0x40, 0x44, 0x30, 0x00, 0x08, 0x10, 0x18, 0x1C⟩ ∧
      (Instr.rdUndef 0x14 .eight).wellFormedIn ⟨0x40, 0x44, 0x30, 0x00, 0x08, 0x10, 0x18, 0x1C⟩ = true) := by decide

/-- OnlyIllegalLengthsAreRejected: lengths beside the legal ones; a legal length answers `OK`. -/
theorem test_witness_illegal_lengths :
    (∀ n ∈ [0, 3, 5, 7, 9], (Transaction.read 0x00 n).len ≠ 4 ∧ (Transaction.read 0x00 n).len ≠ 8) ∧
    nextHas (exec (decode (.read 0x0C 4)) State.reset) (fun u => u.resp.map (·.status) = some .ok) = true := by decide

/-- UndefinedAddressesOfTheDefaultMap: buffers of the length, and addresses where the clauses meet. -/
theorem test_witness_undefined_addresses : [(0 : Byte), 0, 0, 0].length = AccessLen.four.bytes ∧
    decode (.read 0x2C 4) = .rdIntEnable .four ∧ decode (.read 0x30 4) = .rdUndef 0x30 .four ∧
    decode (.read 0x0C 8) = .rdUndef 0x0C .eight ∧ decode (.read 0x24 4) = .rdCPtrHi ∧
    decode (.read 0x24 8) = .rdUndef 0x24 .eight ∧
    decode (.write 0x14 [1, 0, 0, 0, 0, 0, 0, 0]) = .wrUndef 0x14 (.eight 1) := by decide

/-- ReadsChangeNoDeviceState: a read. RegisterAccessesAreIdempotent: a read, a RESET write, which carries no START, and a
START write in an idle state. -/
theorem test_witness_idempotent : (Transaction.read 0x28 4).dir = .read ∧
    ((Transaction.write 0x00 [2, 0, 0, 0]).dir = .write ∧
      decode (.write 0x00 [2, 0, 0, 0]) = .wrControl (.four 2) ∧ (narrowValue (.four 2)).getLsbD 0 = false) ∧
    ((narrowValue (.four 1)).getLsbD 1 = false ∧ (narrowValue (.four 1)).getLsbD 0 = true ∧
      finished.regs.status.getLsbD 0 = true) := by decide

/-- MixedWidthViewOfAPointer: two halves. -/
theorem test_witness_halves : [(0x88 : Byte), 0x77, 0x66, 0x55].length = 4 ∧ [(0x44 : Byte), 0x33, 0x22, 0x11].length = 4 := by
  decide

/-- WritersOfEachRegister: an operation that completes. -/
theorem test_witness_writers : ∃ u, exec (.wrControl (.four 3)) finished = .next u := ⟨_, rfl⟩

/-- StartWhileBusyOnlyStoresControl: V16's second write, and the engine back in P_WAIT without a wake. -/
theorem test_witness_start_while_busy : ((narrowValue (.four 5)).getLsbD 1 = false ∧
    (narrowValue (.four 5)).getLsbD 0 = true ∧ (accepted 1 []).regs.status.getLsbD 0 = false) ∧
    nextHas (exec .engDone (inPhase .fin [])) (fun u => u.eng.phase = .wait ∧ u.wakePending = false) = true := by decide

/-- AcknowledgeAndMergedInterrupts: an acknowledge with the line high and masked; a completion merged and new. -/
theorem test_witness_acknowledge :
    (finished.LineDerived ∧ IntStatusLegal finished.regs.intStatus ∧ (narrowValue (.four 1)).getLsbD 0 = true) ∧
    (State.LineDerived (withRegs ⟨0, 5, 0, 0, 0, 0, 1, 0⟩) ∧ IntStatusLegal 1) ∧
    (State.LineDerived { finished with eng := (inPhase .fin []).eng } ∧ (inPhase .fin []).eng.phase = .fin) ∧
    ((inPhase .fin []).LineDerived ∧ IntStatusLegal (inPhase .fin []).regs.intStatus ∧ (inPhase .fin []).eng.phase = .fin) := by
  decide

/-- StartCapturesTheJob: both clauses. -/
theorem test_witness_start : State.reset.regs.status.getLsbD 0 = true ∧
    (accepted 1 []).regs.status.getLsbD 0 = false := by decide

/-- TheTwoResetsAgreeWhenIdle: a clean state on each side. -/
theorem test_witness_two_resets : (finished.Clean ∧ finished.jobInFlight = false) ∧
    ((inPhase .rdA []).Clean ∧ (inPhase .rdA []).jobInFlight = true) := by decide

/-- LineChangesOnlyWhereListed: for each clause, a state and the operation that changes its line. -/
theorem test_witness_line_changes :
    (finished.LineDerived ∧ IntStatusLegal finished.regs.intStatus) ∧
    (∀ i ∈ [Instr.wrIntEnable (.four 0), .wrIntStatus (.four 1), .wrControl (.four 2), .ctlReset, .por],
      nextHas (exec i finished) (fun u => u.irqLine ≠ finished.irqLine) = true) ∧
    (State.LineDerived { inPhase .fin [] with regs := ⟨1, 2, 1, 0, 0, 0, 0, 1⟩ } ∧ IntStatusLegal 0 ∧
      nextHas (exec .engDone { inPhase .fin [] with regs := ⟨1, 2, 1, 0, 0, 0, 0, 1⟩ }) (fun u => u.irqLine ≠ false) = true) ∧
    (State.LineDerived (withRegs ⟨0, 5, 0, 0, 0, 0, 1, 0⟩) ∧ IntStatusLegal 1 ∧
      nextHas (exec (.wrIntEnable (.four 1)) (withRegs ⟨0, 5, 0, 0, 0, 0, 1, 0⟩)) (fun u => u.irqLine ≠ false) = true) := by
  decide

/-- PendingBitIsSetAndClearedAsListed: the bit set, cleared in each listed way, and masked. -/
theorem test_witness_pending :
    ((inPhase .fin []).regs.intStatus.getLsbD 0 = false ∧ (inPhase .fin []).eng.phase = .fin ∧
      IntStatusLegal (inPhase .fin []).regs.intStatus ∧ (inPhase .fin []).regs.intEnable.getLsbD 0 = false ∧
      nextHas (exec .engDone (inPhase .fin [])) (fun u => u.regs.intStatus.getLsbD 0) = true) ∧
    (finished.regs.intStatus.getLsbD 0 = true ∧
      ∀ i ∈ [Instr.wrIntStatus (.four 1), .wrControl (.four 2), .ctlReset, .por],
        nextHas (exec i finished) (fun u => !u.regs.intStatus.getLsbD 0) = true) ∧
    runsReset (.wrControl (.four 3)) = true := by decide

/-- EdgeRecordFollowsTheLine: a record that says what the line is, and a step. -/
theorem test_witness_edge_record : levelOfLog finished.log = finished.irqLine ∧ ∃ u, step finished = .next u :=
  ⟨by decide, _, rfl⟩

/-- EngineStartTakesTheJob: the dimensions at both boundaries. -/
theorem test_witness_engine_start : ∀ n ∈ [(0 : Word), 1, 256, 257],
    (accepted n []).eng.phase = .wait ∧ (accepted n []).wakePending = true := fun _ _ => ⟨rfl, rfl⟩

/-- OperandAReadFillsTheBuffer, OperandBReadFillsTheBuffer, ResultWriteStoresTheBuffer: a request that succeeds. -/
theorem test_witness_dma_success :
    ((inPhase .rdA [.success]).eng.phase = .rdA ∧ (inPhase .rdA [.success]).answers = .success :: [] ∧
      (inPhase .rdA []).eng.job.a.toNat + 1 * 1 * 4 ≤ 2 ^ 64) ∧
    ((inPhase .rdB [.success]).eng.phase = .rdB ∧ (inPhase .rdB []).eng.job.b.toNat + 1 * 1 * 4 ≤ 2 ^ 64) ∧
    ((inPhase .wrC [.success]).eng.phase = .wrC ∧ Memory.wf (inPhase .wrC []).mem = true ∧
      (inPhase .wrC []).eng.bufC.length = 1 * 1 ∧ (inPhase .wrC []).eng.job.c.toNat + 1 * 1 * 4 ≤ 2 ^ 64) := by decide

/-- The same three: a request that fails. -/
theorem test_witness_dma_fail : ∀ p ∈ [Phase.rdA, .rdB, .wrC],
    (inPhase p [.fail]).eng.phase = p ∧ (inPhase p [.fail]).answers = .fail :: [] := by decide

/-- ComputeIsTheTripleLoop: full operand buffers, and an element of the product. -/
theorem test_witness_compute : (inPhase .compute []).eng.phase = .compute ∧
    (inPhase .compute []).eng.bufA.length = 1 * 1 ∧ (inPhase .compute []).eng.bufB.length = 1 * 1 ∧
    (inPhase .compute []).eng.job.n.toNat = 1 := by decide

/-- CompletionReportsDone, FailureReportsError. -/
theorem test_witness_reports : (inPhase .fin []).eng.phase = .fin ∧ (inPhase .fail []).eng.phase = .fail := by decide

/-- DisabledEngineOperationsStop: outside every guard, and in each phase of an unanswered request. -/
theorem test_witness_disabled : (¬(State.reset.eng.phase = .wait ∧ State.reset.wakePending = true)) ∧
    (∀ p ∈ [Phase.rdA, .rdB, .compute, .wrC, .fin, .fail], State.reset.eng.phase ≠ p) ∧
    (∀ p ∈ [Phase.rdA, .rdB, .wrC], (inPhase p []).eng.phase = p ∧ (inPhase p []).answers = []) := by decide

/-- UndefinedAddressAccesses: undefined transactions of both lengths and directions. -/
theorem test_witness_undefined_transactions :
    ((Transaction.read 0x0C 4).len = AccessLen.four.bytes ∧ Config.regMap.undefinedAt 0x0C .four = true) ∧
    ((Transaction.write 0x24 [1, 0, 0, 0, 0, 0, 0, 0]).len = AccessLen.eight.bytes ∧
      Config.regMap.undefinedAt 0x24 .eight = true) := by decide

/-- SilentEndpointHoldsTheEngine, WaitingEngineKeepsEverything: each clause. -/
theorem test_witness_blocked :
    (∀ p ∈ [Phase.rdA, .rdB, .wrC], (inPhase p []).answers = [] ∧ (inPhase p []).eng.phase ∈ [Phase.rdA, .rdB, .wrC] ∧
      (inPhase p []).schedule = [] ∧ ((inPhase p []).setSchedule [.engine]).schedule = .engine :: []) ∧
    (finished.eng.phase = .wait ∧ finished.wakePending = false ∧ finished.schedule = [] ∧
      (finished.setSchedule [.engine]).schedule = .engine :: []) ∧
    ((inPhase .rdA []).regs.status = 0x00000002 ∧
      ((inPhase .rdA []).setSchedule [.bus (.write 0x00 [2, 0, 0, 0])]).schedule.head? ≠ some .powerOn ∧
      nextHas (step ((inPhase .rdA []).setSchedule [.bus (.write 0x00 [2, 0, 0, 0])])) (fun u => u.regs.status = 1) = true) := by
  decide

/-- PhaseChangesOnlyAlongTheGraph, MarksAreSticky: an operation other than POR that completes. -/
theorem test_witness_not_por : (∃ u, exec .engRdA (inPhase .rdA [.success]) = .next u) ∧ Instr.engRdA ≠ .por ∧
    (∃ u, exec (.wrDimN (.four 2)) (inPhase .rdA []) = .next u) ∧ writesJobRegister (.wrDimN (.four 2)) = true ∧
    Instr.wrDimN (.four 2) ≠ .por ∧ (inPhase .rdA []).jobInFlight = true :=
  ⟨⟨_, rfl⟩, by decide, ⟨_, rfl⟩, by decide, by decide, by decide⟩

/-- OnlyDmaStepsReachExternalMemory: an operation outside the list, and both reads completing. -/
theorem test_witness_dma_steps : Instr.engDone ∉ [Instr.engRdA, .engRdB, .engWrC] ∧
    (∃ u, exec .engRdA (inPhase .rdA [.success]) = .next u) ∧ (∃ u, exec .engRdB (inPhase .rdB [.fail]) = .next u) :=
  ⟨by decide, ⟨_, rfl⟩, ⟨_, rfl⟩⟩

/-- JobWritesTheReferenceProduct: the four operations in a row, with nothing between them. -/
theorem test_witness_job_product : ∃ s0 s1 s3 s5 s7 : State, exec .engRdA s0 = .next s1 ∧ exec .engRdB s1 = .next s3 ∧
    exec .engCompute s3 = .next s5 ∧ exec .engWrC s5 = .next s7 ∧ s7.eng.phase = .fin :=
  ⟨inPhase .rdA [.success, .success, .success], _, _, _, _, rfl, rfl, rfl, rfl, rfl⟩

/-- JobEndsWithinFiveSteps: in each phase of a job, with three verdicts of either kind. -/
theorem test_witness_job_ends : ∀ p ∈ [Phase.rdA, .rdB, .compute, .wrC, .fin, .fail],
    (inPhase p [.success, .fail, .success]).schedule = [] ∧ (inPhase p [.success, .fail, .success]).eng.phase ≠ .wait ∧
    3 ≤ (inPhase p [.success, .fail, .success]).answers.length := by decide

/-- FailedJobChangesOnlyStatus: each of the three requests failing. -/
theorem test_witness_failed_job : (accepted 1 []).schedule = [] ∧ (accepted 1 []).eng.phase = .wait ∧
    (accepted 1 []).wakePending = true ∧ DimensionValid (accepted 1 []).job.n ∧
    (accepted 1 [.fail]).answers = .fail :: [] ∧ (accepted 1 [.success, .fail]).answers = .success :: .fail :: [] ∧
    (accepted 1 [.success, .success, .fail]).answers = .success :: .success :: .fail :: [] := by decide

/-- SuccessfulJobEndsDone: at both ends of the legal dimensions. -/
theorem test_witness_successful_job : ∀ n : Word, n = 1 ∨ n = 256 →
    let s := accepted n [.success, .success, .success]
    s.schedule = [] ∧ s.eng.phase = .wait ∧ s.wakePending = true ∧ DimensionValid s.job.n ∧
    s.answers = .success :: .success :: .success :: [] := by
  rintro n (rfl | rfl) <;> decide

/-- AdditionRoundsToNearestEven, MultiplicationRoundsToNearestEven: finite operands (V36, V38), the sum and the product
finite, and a sum and a product that overflow. -/
theorem test_witness_rounding : F32Finite 0x4B800000 ∧ F32Finite 0x3F800000 ∧ F32Finite (f32Add 0x4B800000 0x3F800000) ∧
    F32Finite 0x0DA24260 ∧ F32Finite 0x2EDBE6FF ∧ F32Finite (f32Mul 0x0DA24260 0x2EDBE6FF) ∧
    F32Finite 0x7F7FFFFF ∧ f32IsInf (f32Add 0x7F7FFFFF 0x7F7FFFFF) = true ∧
    f32IsInf (f32Mul 0x7F7FFFFF 0x40000000) = true := by
  decide +kernel

/-- StepRunsTheNextOperation: each clause. -/
theorem test_witness_turns :
    (State.reset.setSchedule [.bus (.read 0x04 4)]).schedule = .bus (.read 0x04 4) :: [] ∧
    engineOp ((inPhase .fin []).setSchedule [.engine]) = some .engDone ∧
    engineOp (inPhase .fin []) = some .engDone ∧ (inPhase .fin []).schedule = [] ∧
    (State.reset.setSchedule [.powerOn]).schedule = .powerOn :: [] := by decide

/-- HostMemoryChangeIsOneStep: two changes, one address named twice. -/
theorem test_witness_host_memory :
    let s := (inPhase .rdA []).setSchedule [.hostMem [(0x3003, 0x55), (0x3003, 0x00)]]
    Memory.wf s.mem = true ∧ s.schedule = .hostMem [(0x3003, 0x55), (0x3003, 0x00)] :: [] ∧
    [((0x3003 : Ptr), (0x55 : Byte)), (0x3003, 0x00)] = [(0x3003, 0x55)] ++ (0x3003, 0x00) :: [] ∧
    nextHas (step s) (fun u => readByte u.mem 0x3003 = 0 ∧ readByte u.mem 0x3002 = 0x80) = true := by decide

/-- StatusStaysLegal, StepKeepsTheInvariant: states in a job and after one that meet the hypotheses, and their steps. -/
theorem test_witness_invariant : (finished.Inv ∧ (inPhase .rdA [.success]).Inv ∧ (accepted 0 []).Inv) ∧
    (∃ u, step finished = .next u) ∧ (∃ u, step (inPhase .rdA [.success]) = .next u) ∧
    (∃ u, step (accepted 0 []) = .next u) :=
  ⟨by refine ⟨⟨?_, ?_, ?_, ?_, ?_, ?_, ?_, ?_, ?_, ?_⟩, ⟨?_, ?_, ?_, ?_, ?_, ?_, ?_, ?_, ?_, ?_⟩,
    ⟨?_, ?_, ?_, ?_, ?_, ?_, ?_, ?_, ?_, ?_⟩⟩ <;> decide, ⟨_, rfl⟩, ⟨_, rfl⟩, ⟨_, rfl⟩⟩

/-- EngineIgnoresTheJobRegisters: an engine operation of the list. -/
theorem test_witness_engine_list :
    Instr.engWrC ∈ [Instr.engStart, .engRdA, .engRdB, .engCompute, .engWrC, .engDone, .engError] := by decide

end Sys2Proof.Tests
end

section
/-!
PROOFS. The statements of 30_encoding about the decoder's two fall-through rows: the transactions of illegal length (R98)
and the accesses that match no register (R97).
-/

namespace Sys2Proof.Machine

open Sys2Proof
open Sys2Proof.Laws.EncodedLength (isRejection len_bytes_legal data_bytes_legal)

/-! ### Transactions by their length (R90, R92) -/

@[simp] theorem writeData_bytes_length (d : WriteData) : d.bytes.length = d.len.bytes := by
  cases d with
  | four v => exact bytesLe_length v.toNat 4
  | eight p => exact bytesLe_length p.toNat 8

theorem accessLen_bytes_injective : Function.Injective AccessLen.bytes := fun l k h =>
  Option.some.inj (by rw [← legalLen_bytes l, ← legalLen_bytes k, h])

theorem illegalLength_iff {n : Nat} : illegalLength n = true ↔ n ≠ 4 ∧ n ≠ 8 := by
  simp [illegalLength]

theorem legalLen_eq_none {n : Nat} (h : illegalLength n = true) : legalLen n = none := by
  obtain ⟨h4, h8⟩ := illegalLength_iff.mp h
  rw [legalLen, if_neg h4, if_neg h8]

/-- A transaction is a read of legal length, a write whose buffer is a data operand, or of illegal length. -/
theorem transaction_cases (t : Transaction) :
    (∃ a, ∃ len : AccessLen, t = .read a len.bytes) ∨ (∃ a, ∃ d : WriteData, t = .write a d.bytes) ∨
    illegalLength t.len = true := by
  cases t with
  | read a n =>
    by_cases h4 : n = 4
    · exact .inl ⟨a, .four, by rw [h4]; rfl⟩
    · by_cases h8 : n = 8
      · exact .inl ⟨a, .eight, by rw [h8]; rfl⟩
      · exact .inr (.inr (illegalLength_iff.mpr ⟨h4, h8⟩))
  | write a buf =>
    obtain ⟨d, -, hbytes, -⟩ | ⟨-, hillegal⟩ := writeData_cases buf
    · exact .inr (.inl ⟨a, d, by rw [hbytes]⟩)
    · exact .inr (.inr (illegalLength_iff.mpr hillegal))

/-! ### What the decoder answers, by length (R93 step 1) -/

@[simp] theorem decodeIn_read (m : RegMap) (a : Ptr) (len : AccessLen) :
    decodeIn m (.read a len.bytes) = decodeRead m a len := by
  simp only [decodeIn, legalLen_bytes]

@[simp] theorem decodeIn_write (m : RegMap) (a : Ptr) (d : WriteData) :
    decodeIn m (.write a d.bytes) = decodeWrite m a d := by
  simp only [decodeIn, writeData_bytes]

theorem decodeIn_of_illegalLength (m : RegMap) {t : Transaction} (h : illegalLength t.len = true) :
    decodeIn m t = .accBadlen t := by
  cases t with
  | read a n =>
    have hnone : legalLen n = none := legalLen_eq_none h
    simp only [decodeIn, hnone]
  | write a buf =>
    have hnone : legalLen buf.length = none := legalLen_eq_none h
    simp only [decodeIn, writeData, hnone]

theorem decodeRead_isRejection (m : RegMap) (a : Ptr) (len : AccessLen) : isRejection (decodeRead m a len) = false := by
  cases len <;>
    · simp only [decodeRead, apply_ite isRejection]
      simp [isRejection]

theorem decodeWrite_isRejection (m : RegMap) (a : Ptr) (d : WriteData) : isRejection (decodeWrite m a d) = false := by
  cases d <;>
    · simp only [decodeWrite, decodeWriteHigh, apply_ite isRejection]
      simp [isRejection]

/-- R98: under every map the decoder rejects exactly the illegal lengths. -/
theorem decodeIn_isRejection (m : RegMap) (t : Transaction) : isRejection (decodeIn m t) = illegalLength t.len := by
  obtain ⟨a, len, rfl⟩ | ⟨a, d, rfl⟩ | h := transaction_cases t
  · rw [decodeIn_read, decodeRead_isRejection]
    exact (len_bytes_legal len).symm
  · rw [decodeIn_write, decodeWrite_isRejection]
    exact (data_bytes_legal d).symm
  · rw [decodeIn_of_illegalLength m h, h]
    rfl

/-! ### Illegal lengths (R98) -/

theorem exec_accBadlen (t : Transaction) (s : State) :
    exec (.accBadlen t) s = .next { s with resp := some ⟨.genericError, []⟩ } := rfl

/-- R120: a bus operation other than ACC.BADLEN answers `OK`. -/
theorem exec_responds_ok {i : Instr} (hbus : isBus i = true) (hacc : isRejection i = false) (s : State) :
    ∃ u d, exec i s = .next u ∧ u.resp = some ⟨.ok, d⟩ := by
  cases i with
  | accBadlen t => cases hacc
  | engStart | engRdA | engRdB | engCompute | engWrC | engDone | engError => cases hbus
  | ctlReset | ctlStart | irqEval | por => cases hbus
  | _ => exact ⟨_, _, rfl, rfl⟩

/-- Settles O3: the decoder rejects exactly the illegal lengths, and every other bus operation answers `OK`. -/
theorem onlyIllegalLengthsAreRejected : Obligations.OnlyIllegalLengthsAreRejected := by
  intro t s
  have hdec (h : illegalLength t.len = true) (m : RegMap) : decodeIn m t = .accBadlen t := decodeIn_of_illegalLength m h
  refine ⟨⟨[], exec_accBadlen t s⟩, fun h4 h8 => hdec (illegalLength_iff.mpr ⟨h4, h8⟩), ?_⟩
  rw [← illegalLength_iff]
  constructor
  · rintro ⟨u, d, hu, herr⟩
    by_contra hlegal
    have hacc : isRejection (decode t) = false :=
      (decodeIn_isRejection Config.regMap t).trans (Bool.eq_false_iff.mpr hlegal)
    obtain ⟨v, e, hv, hok⟩ := exec_responds_ok (decodeIn_isBus Config.regMap t) hacc s
    cases hu.symm.trans hv
    cases herr.symm.trans hok
  · intro h
    exact ⟨_, [], by rw [decode, hdec h, exec_accBadlen], rfl⟩

/-! ### Undefined addresses (R97, R126, R127) -/

/-- R97: the offsets an undefined access avoids, one by one. -/
theorem undefinedAt_iff (m : RegMap) (a : Ptr) (len : AccessLen) : m.undefinedAt a len = true ↔
    (a ≠ m.control ∧ a ≠ m.status ∧ a ≠ m.dimN ∧ a ≠ m.intStatus ∧ a ≠ m.intEnable) ∧
    (a ≠ m.aPtr ∧ a ≠ m.bPtr ∧ a ≠ m.cPtr) ∧
    (len = .four → a ≠ m.aPtr + 4 ∧ a ≠ m.bPtr + 4 ∧ a ≠ m.cPtr + 4) := by
  cases len <;> simp [RegMap.undefinedAt, and_assoc]

theorem decodeRead_of_undefinedAt {m : RegMap} {a : Ptr} {len : AccessLen} (h : m.undefinedAt a len = true) :
    decodeRead m a len = .rdUndef a len := by
  obtain ⟨⟨h1, h2, h3, h4, h5⟩, ⟨h6, h7, h8⟩, hhigh⟩ := (undefinedAt_iff m a len).mp h
  cases len with
  | four =>
    obtain ⟨h9, h10, h11⟩ := hhigh rfl
    simp only [decodeRead, *, if_false, false_and]
  | eight => simp [decodeRead, *]

theorem decodeWrite_of_undefinedAt {m : RegMap} {a : Ptr} {d : WriteData} (h : m.undefinedAt a d.len = true) :
    decodeWrite m a d = .wrUndef a d := by
  obtain ⟨⟨h1, h2, h3, h4, h5⟩, ⟨h6, h7, h8⟩, hhigh⟩ := (undefinedAt_iff m a d.len).mp h
  cases d with
  | four v =>
    obtain ⟨h9, h10, h11⟩ := hhigh rfl
    simp only [decodeWrite, decodeWriteHigh, *, if_false]
  | eight p => simp only [decodeWrite, decodeWriteHigh, *, if_false]

theorem exec_rdUndef (a : Ptr) (len : AccessLen) (s : State) : exec (.rdUndef a len) s = .next { s with
    log := s.log ++ [.warnUndefined .read a], resp := some ⟨.ok, sentinelData len⟩ } := rfl

theorem exec_wrUndef (a : Ptr) (d : WriteData) (s : State) : exec (.wrUndef a d) s = .next { s with
    log := s.log ++ [.warnUndefined .write a], resp := some ⟨.ok, []⟩ } := rfl

theorem sentinelData_four : sentinelData .four = fourBytes Config.sentinel32 := bytesLe_four _

theorem sentinelData_eight : sentinelData .eight = eightBytes Config.sentinel64 := bytesLe_eight _

/-- R97: a transaction of legal length at an undefined address logs its warning and answers `OK`, under every map. -/
theorem exec_decodeIn_of_undefinedAt {m : RegMap} {t : Transaction} {len : AccessLen} (hlen : t.len = len.bytes)
    (h : m.undefinedAt t.addr len = true) (s : State) : ∃ d, exec (decodeIn m t) s = .next { s with
      log := s.log ++ [.warnUndefined t.dir t.addr], resp := some ⟨.ok, d⟩ } := by
  obtain ⟨a, k, rfl⟩ | ⟨a, d, rfl⟩ | hillegal := transaction_cases t
  · obtain rfl : k = len := accessLen_bytes_injective hlen
    have hdec : decodeIn m (.read a k.bytes) = .rdUndef a k :=
      (decodeIn_read m a k).trans (decodeRead_of_undefinedAt h)
    exact ⟨_, hdec ▸ exec_rdUndef a k s⟩
  · obtain rfl : d.len = len := accessLen_bytes_injective ((writeData_bytes_length d).symm.trans hlen)
    have hdec : decodeIn m (.write a d.bytes) = .wrUndef a d :=
      (decodeIn_write m a d).trans (decodeWrite_of_undefinedAt h)
    exact ⟨_, hdec ▸ exec_wrUndef a d s⟩
  · exact absurd hillegal (by rw [hlen, len_bytes_legal]; exact Bool.false_ne_true)

/-- Settles O9: the undefined accesses in every state, and the transactions that decode to them. -/
theorem undefinedAddressAccesses : Obligations.UndefinedAddressAccesses := fun s addr w =>
  ⟨by rw [exec_rdUndef, sentinelData_four], by rw [exec_rdUndef, sentinelData_eight], exec_wrUndef addr w s,
    fun _ _ hlen hundef => exec_decodeIn_of_undefinedAt hlen hundef s⟩

end Sys2Proof.Machine
end

section
/-!
PROOFS. The statements of 40_register_access about all bus operations: each one answers (R120), and a read changes no
device state (R148).
-/

namespace Sys2Proof.Machine

open Sys2Proof
open Sys2Proof.Laws.EncodedLength (isRejection)

/-! ### Every bus operation responds (R120) -/

theorem isRejection_iff {i : Instr} : isRejection i = true ↔ ∃ x, i = .accBadlen x := by
  constructor
  · cases i with
    | accBadlen x => exact fun _ => ⟨x, rfl⟩
    | _ => exact nofun
  · rintro ⟨x, rfl⟩
    rfl

/-- Settles O14: a decoded operation is ACC.BADLEN, which answers the error, or a bus operation that answers `OK`. -/
theorem busOperationsRespond : Obligations.BusOperationsRespond := by
  intro t s
  by_cases hrej : ∃ x, decode t = .accBadlen x
  · obtain ⟨x, hx⟩ := hrej
    exact ⟨_, ⟨.genericError, []⟩, hx ▸ exec_accBadlen x s, rfl, iff_of_false (by decide) fun hne => hne x hx⟩
  · have hacc : isRejection (decode t) = false := Bool.eq_false_iff.mpr (mt isRejection_iff.mp hrej)
    obtain ⟨u, d, hu, hok⟩ := exec_responds_ok (decodeIn_isBus Config.regMap t) hacc s
    exact ⟨u, _, hu, hok, iff_of_true rfl (not_exists.mp hrej)⟩

/-! ### Reads (R148) -/

/-- The rows of format BUS whose transaction is a read of legal length (R96). -/
def isRead : Instr → Bool
  | .rdControl _ | .rdStatus _ | .rdDimN _ | .rdIntStatus _ | .rdIntEnable _ | .rdUndef _ _ => true
  | .rdAPtr | .rdAPtrLo | .rdAPtrHi | .rdBPtr | .rdBPtrLo | .rdBPtrHi | .rdCPtr | .rdCPtrLo | .rdCPtrHi => true
  | _ => false

theorem decodeRead_isRead (m : RegMap) (a : Ptr) (len : AccessLen) : isRead (decodeRead m a len) = true := by
  cases len <;>
    · simp only [decodeRead, apply_ite isRead]
      simp [isRead]

/-- R93: the decoder sends a read to a read row, or rejects its length. -/
theorem decodeIn_read_cases (m : RegMap) {t : Transaction} (h : t.dir = .read) :
    isRead (decodeIn m t) = true ∨ decodeIn m t = .accBadlen t := by
  obtain ⟨a, len, rfl⟩ | ⟨a, d, rfl⟩ | hillegal := transaction_cases t
  · exact .inl (by rw [decodeIn_read, decodeRead_isRead])
  · cases h
  · exact .inr (decodeIn_of_illegalLength m hillegal)

/-- A read row gives the response and may append to the event record; the rest of the state stays. -/
theorem exec_of_isRead {i : Instr} (h : isRead i = true) (s : State) :
    ∃ l r, exec i s = .next { s with log := l, resp := r } := by
  cases i with
  | rdControl | rdStatus | rdDimN | rdIntStatus | rdIntEnable | rdUndef => exact ⟨_, _, rfl⟩
  | rdAPtr | rdAPtrLo | rdAPtrHi | rdBPtr | rdBPtrLo | rdBPtrHi | rdCPtr | rdCPtrLo | rdCPtrHi => exact ⟨_, _, rfl⟩
  | _ => cases h

theorem sameDevice_log_resp (s : State) (l : List Event) (r : Option Response) :
    SameDevice s { s with log := l, resp := r } :=
  ⟨rfl, rfl, rfl, rfl, rfl, rfl, rfl, rfl, rfl, rfl⟩

/-- Settles O15: a read is a read row or a rejected length, and either writes only the response and the event record. -/
theorem readsChangeNoDeviceState : Obligations.ReadsChangeNoDeviceState := by
  intro t s hread
  obtain hrow | hbad := decodeIn_read_cases Config.regMap hread
  · obtain ⟨l, r, hu⟩ := exec_of_isRead hrow s
    exact ⟨_, hu, sameDevice_log_resp s l r⟩
  · exact ⟨_, by rw [decode, hbad, exec_accBadlen], sameDevice_log_resp s s.log _⟩

end Sys2Proof.Machine
end

section
/-!
PROOFS. The exact next state of every operation, in the reference forms of Safety.lean, and the statements about one
operation that say no more than that. Later proofs rewrite with these equations and do not unfold the meanings.
-/

namespace Sys2Proof.Machine

open Sys2Proof

/-! ### Reads and ignored writes (40_register_access, 42_interrupt) -/

/-- Settles O4: it is the equation of ACC.BADLEN. -/
theorem rejectedAccessReturnsNoData : Obligations.RejectedAccessReturnsNoData := exec_accBadlen

/-- Settles O6: the decoder run on each of the seven transactions. -/
theorem sampleTransactionsDecode : Obligations.SampleTransactionsDecode := by
  unfold Obligations.SampleTransactionsDecode
  decide

/-- Settles O7: the model's data assembly is the reference layout, and the read is then the answer by definition. -/
theorem narrowRegisterReads : Obligations.NarrowRegisterReads := by
  intro s len
  simp only [← readData_eq]
  exact ⟨rfl, rfl, rfl, rfl, rfl⟩

/-- Settles O8: as O7, with the halves of a pointer in the reference form. -/
theorem pointerRegisterReads : Obligations.PointerRegisterReads := by
  intro s
  simp only [← bytesLe_eight, ← bytesLe_four, ← loHalf_eq, ← hiHalf_eq]
  exact ⟨rfl, rfl, rfl, rfl, rfl, rfl, rfl, rfl, rfl⟩

/-- Settles O11: it is the meaning of WR.STATUS with its updates written out. -/
theorem statusWriteIsIgnored : Obligations.StatusWriteIsIgnored := fun _ _ => rfl

/-! ### Writes of the job registers (R125, R131 to R147) -/

/-- The mark, the register and the answer of a job-register write, in one record. -/
theorem noteJobWrite_withRegs (s : State) (r : RegFile) :
    ({ noteJobWrite s with regs := r }).respond .ok [] = afterJobWrite s r := by
  rw [noteJobWrite_eq]
  rfl

/-- Settles O12: WR.DIM_N is a job-register write of the value its data gives. -/
theorem dimensionWriteStores : Obligations.DimensionWriteStores := by
  intro s d
  rw [← wdata_eq, ← noteJobWrite_withRegs, ← noteJobWrite_regs s]
  rfl

/-- Settles O13: each pointer write is a job-register write, its halves in the reference form. -/
theorem pointerRegisterWrites : Obligations.PointerRegisterWrites := by
  intro s p v
  simp only [← hiHalf_eq, ← loHalf_eq, ← noteJobWrite_withRegs]
  simp only [exec, execWrAPtr, execWrAPtrLo, execWrAPtrHi, execWrBPtr, execWrBPtrLo, execWrBPtrHi, execWrCPtr,
    execWrCPtrLo, execWrCPtrHi, State.setAPtr, State.setBPtr, State.setCPtr, noteJobWrite_regs, withLo, withHi, and_self]

/-! ### The line (R182, R184, R186) -/

theorem irqEval_eq (s : State) : irqEval s =
    { s with irqLine := irqValue s.regs, log := logEdge s.log s.irqLine (irqValue s.regs) } := by
  by_cases h : irqValue s.regs = s.irqLine
  · simp [irqEval, logEdge, State.setIrqLine, h]
  · simp [irqEval, logEdge, State.setIrqLine, State.record, h, Ne.symm h]

/-- Settles O23: `irqEval_eq` with the line's equation in the reference form. -/
theorem irqEvalDrivesTheLine : Obligations.IrqEvalDrivesTheLine := by
  intro s
  simp only [← irqValue_eq, ← irqEval_eq]
  rfl

/-- The same with the value the line is driven to in another form. -/
theorem irqEval_of_irqValue {s : State} {v : Bool} (h : irqValue s.regs = v) : irqEval s =
    { s with irqLine := v, log := logEdge s.log s.irqLine v } := by
  rw [irqEval_eq, h]

theorem exec_wrIntStatus (d : WriteData) (s : State) : exec (.wrIntStatus d) s = .next
    ((irqEval (s.setIntStatus (s.regs.intStatus &&& ~~~(narrowValue d)))).respond .ok []) := by
  rw [← wdata_eq]
  rfl

theorem exec_wrIntEnable (d : WriteData) (s : State) : exec (.wrIntEnable d) s = .next
    ((irqEval (s.setIntEnable (narrowValue d))).respond .ok []) := by
  rw [← wdata_eq]
  rfl

/-- Settles O24: the register is written and the line driven from it. -/
theorem intStatusWriteClears : Obligations.IntStatusWriteClears := by
  intro s d
  rw [exec_wrIntStatus, irqEval_eq]
  simp only [irqValue_eq]
  rfl

/-- Settles O25: as O24, for INT_ENABLE. -/
theorem intEnableWriteStores : Obligations.IntEnableWriteStores := by
  intro s d
  rw [exec_wrIntEnable, irqEval_eq]
  simp only [irqValue_eq]
  rfl

/-! ### The CONTROL write and its actions (R161 to R166) -/

theorem irqValue_powerOn : irqValue RegFile.powerOn = false := rfl

theorem noteReset_eq (s : State) : noteReset s = { s with marks := { s.marks with
    resetInFlight := s.marks.resetInFlight || s.wakePending || decide (s.eng.phase ≠ .wait) } } := by
  rw [Bool.or_assoc, ← jobInFlight_eq]
  unfold noteReset
  cases s.jobInFlight <;> simp [State.setMarks]

theorem ctlReset_eq (s : State) : ctlReset s = afterReset s := by
  rw [ctlReset, noteReset_eq, irqEval_of_irqValue irqValue_powerOn]
  rfl

/-- Settles O20: it is `ctlReset_eq`. -/
theorem resetRestoresTheRegisters : Obligations.ResetRestoresTheRegisters := fun s =>
  congrArg Host.Outcome.next (ctlReset_eq s)

/-- Settles O21: the two branches of the acceptance test. -/
theorem startCapturesTheJob : Obligations.StartCapturesTheJob := fun _ =>
  ⟨fun h => congrArg Host.Outcome.next (ctlStart_of_idle h), fun h => congrArg Host.Outcome.next (ctlStart_of_not_idle h)⟩

/-- The action of a CONTROL write, RESET first (R161, R166). -/
theorem controlAction_eq (v : Word) (s : State) : controlAction v s =
    if v.getLsbD 1 then afterReset s else if v.getLsbD 0 && s.regs.status.getLsbD 0 then afterStart s else s := by
  simp only [controlAction, ctlReset_eq, ctlStart, Bool.and_eq_true, ite_and]
  rfl

/-- Settles O18: the action on the state with CONTROL stored, which a RESET then clears. -/
theorem controlWriteDecisionTable : Obligations.ControlWriteDecisionTable := by
  intro s d v stored
  have hreset : afterReset (s.setControl v) = afterReset s := rfl
  rw [exec, execWrControl, wdata_eq, controlAction_eq, hreset]
  rfl

/-! ### The engine's requests, by the endpoint's verdict (R205, R206, R222, R223, R226) -/

/-- The state after ENG.RD_A where the endpoint answered with a failure (R222, log 12). -/
def afterReadAFailed (s : State) (rest : List Answer) : State :=
  { s with
    eng := { s.eng with bufA := Config.freeBuffer (s.free + 1), phase := .fail }
    answers := rest
    free := s.free + 2
    log := s.log ++ [.dma .read s.eng.job.a (dmaLen s.eng.job.n) .fail] }

/-- The state after ENG.RD_A where the request succeeded (R222). -/
def afterReadA (s : State) (rest : List Answer) : State :=
  { s with
    eng := { s.eng with
      bufA := elemsOfBytes (readBytes s.free s.mem s.eng.job.a (dmaLen s.eng.job.n))
      phase := .rdB }
    answers := rest
    free := s.free + 1
    log := s.log ++ [.dma .read s.eng.job.a (dmaLen s.eng.job.n) .success] }

/-- The state after ENG.RD_B where the endpoint answered with a failure (R223, log 12). -/
def afterReadBFailed (s : State) (rest : List Answer) : State :=
  { s with
    eng := { s.eng with bufB := Config.freeBuffer (s.free + 1), phase := .fail }
    answers := rest
    free := s.free + 2
    log := s.log ++ [.dma .read s.eng.job.b (dmaLen s.eng.job.n) .fail] }

/-- The state after ENG.RD_B where the request succeeded (R223). -/
def afterReadB (s : State) (rest : List Answer) : State :=
  { s with
    eng := { s.eng with
      bufB := elemsOfBytes (readBytes s.free s.mem s.eng.job.b (dmaLen s.eng.job.n))
      phase := .compute }
    answers := rest
    free := s.free + 1
    log := s.log ++ [.dma .read s.eng.job.b (dmaLen s.eng.job.n) .success] }

/-- The state after ENG.WR_C where the endpoint answered with a failure (R226). -/
def afterWriteFailed (s : State) (rest : List Answer) : State :=
  { s with
    eng := { s.eng with phase := .fail }
    answers := rest
    free := s.free + 1
    log := s.log ++ [.dma .write s.eng.job.c (s.eng.bufC.length * 4) .fail] }

/-- The state after ENG.WR_C where the request succeeded (R226). -/
def afterWrite (s : State) (rest : List Answer) : State :=
  { s with
    mem := writeBytes s.free s.mem s.eng.job.c (bytesOfElems s.eng.bufC)
    eng := { s.eng with phase := .fin }
    answers := rest
    free := s.free + 1
    log := s.log ++ [.dma .write s.eng.job.c (s.eng.bufC.length * 4) .success] }

/-- What a request's operation answers, by the verdicts listed (R205, R206). -/
def byVerdict (mnemonic : String) (failed succeeded : List Answer → State) :
    List Answer → Host.Outcome State Fault Refusal
  | [] => .fault (.noResponse mnemonic)
  | .fail :: rest => .next (failed rest)
  | .success :: rest => .next (succeeded rest)

theorem exec_engRdA (s : State) : exec .engRdA s = if s.eng.phase = .rdA then
    byVerdict "ENG.RD_A" (afterReadAFailed s) (afterReadA s) s.answers else .fault (.notEnabled "ENG.RD_A") := by
  rw [exec, execEngRdA]
  obtain ⟨ha, he⟩ | ⟨rest, ha, he⟩ | ⟨rest, ha, he⟩ := memRead_cases s s.eng.job.a (dmaLen s.eng.job.n) <;>
    · rw [he, ha]
      rfl

theorem exec_engRdB (s : State) : exec .engRdB s = if s.eng.phase = .rdB then
    byVerdict "ENG.RD_B" (afterReadBFailed s) (afterReadB s) s.answers else .fault (.notEnabled "ENG.RD_B") := by
  rw [exec, execEngRdB]
  obtain ⟨ha, he⟩ | ⟨rest, ha, he⟩ | ⟨rest, ha, he⟩ := memRead_cases s s.eng.job.b (dmaLen s.eng.job.n) <;>
    · rw [he, ha]
      rfl

theorem exec_engWrC (s : State) : exec .engWrC s = if s.eng.phase = .wrC then
    byVerdict "ENG.WR_C" (afterWriteFailed s) (afterWrite s) s.answers else .fault (.notEnabled "ENG.WR_C") := by
  rw [exec, execEngWrC]
  obtain ⟨ha, he⟩ | ⟨rest, ha, he⟩ | ⟨rest, ha, he⟩ := memWrite_cases s s.eng.job.c (bytesOfElems s.eng.bufC) <;>
    · simp only [he, ha, bytesOfElems_length]
      rfl

/-! ### The engine's guards and reports (R91, R221, R227, R228) -/

/-- Settles O30: the guarded ENG.START with the dimension test in the reference form. -/
theorem engineStartTakesTheJob : Obligations.EngineStartTakesTheJob := by
  intro s hphase hwake
  have hstart := execEngStart_next hphase hwake
  simp only [dimensionInvalid_iff] at hstart
  exact hstart

/-- Settles O35: STATUS and INT_STATUS are written, the line is driven from them, and the engine returns. -/
theorem completionReportsDone : Obligations.CompletionReportsDone := by
  intro s hphase v line
  refine ⟨(toWait s).eng, (toWait s).free, rfl, ?_⟩
  rw [exec, execEngDone_next hphase, reportSuccess, irqEval_of_irqValue (irqValue_eq _)]
  rfl

/-- Settles O36: only STATUS is written before the engine returns. -/
theorem failureReportsError : Obligations.FailureReportsError := fun s hphase =>
  ⟨(toWait s).eng, (toWait s).free, rfl, execEngError_next hphase⟩

/-- Settles O37: each engine operation's guard, and its request where no verdict is listed. -/
theorem disabledEngineOperationsStop : Obligations.DisabledEngineOperationsStop := by
  intro s
  refine ⟨fun h => if_neg h, fun h => if_neg h, fun h => if_neg h, fun h => if_neg h, fun h => if_neg h,
    fun h => if_neg h, fun h => if_neg h, fun hsilent => ⟨fun h => ?_, fun h => ?_, fun h => ?_⟩⟩
  · rw [exec_engRdA, if_pos h, hsilent, byVerdict]
  · rw [exec_engRdB, if_pos h, hsilent, byVerdict]
  · rw [exec_engWrC, if_pos h, hsilent, byVerdict]

/-! ### Power-on (R48, R300) -/

/-- Settles O52: the line is driven from registers at their power-on values, so it is low. -/
theorem powerOnRestoresTheDevice : Obligations.PowerOnRestoresTheDevice := by
  intro s
  refine ⟨(toWait s).eng, freeJob (s.free + 3), s.free + 3 + 3, rfl, ?_⟩
  rw [exec, execPor, powerOn, irqEval_of_irqValue irqValue_powerOn]
  rfl

/-- Settles O53: the fields of `State.reset`. -/
theorem resetStateIsPowerOn : Obligations.ResetStateIsPowerOn := ⟨rfl, rfl, rfl, rfl, rfl, rfl⟩

/-- Settles O60: every clause is a closed fact about `State.reset`, which waits with no job, no wake and no memory. -/
theorem resetMeetsTheInvariant : Obligations.ResetMeetsTheInvariant where
  line := rfl
  status := .inl rfl
  intStatus := .inl rfl
  memory := Memory.wf_nil
  busy := fun _ => by decide
  wake := fun _ h => absurd h (by decide)
  engine := ⟨fun h => absurd h (by decide), fun h => absurd h (by decide), fun h => absurd h (by decide),
    fun h => absurd h (by decide)⟩

end Sys2Proof.Machine
end

section
/-!
PROOFS. The decoder and the encoder are inverse to each other (30_encoding R93, R96): one way for every map, the other
where the map is acceptable (R61). And what follows for the default map (R97), for a pointer seen at both widths (R79) and
for an access made twice (R68).
-/

namespace Sys2Proof.Machine

open Sys2Proof
open Sys2Proof.Laws.EncodedLength (len_bytes_legal)

/-! ### The offsets of an acceptable map (R61) -/

/-- The word offsets inside a byte range of width 4 or 8. -/
def wordsOfRange (r : Nat × Nat) : List Nat := if r.2 = 8 then [r.1, r.1 + 4] else [r.1]

/-- The offsets a transaction of legal length can name a register by (R93): a base each, and the high half of each pointer. -/
def registerOffsets (m : RegMap) : List Ptr :=
  [m.control, m.status, m.dimN, m.intStatus, m.intEnable, m.aPtr, m.aPtr + 4, m.bPtr, m.bPtr + 4, m.cPtr, m.cPtr + 4]

theorem wordsOfRange_nodup (r : Nat × Nat) : (wordsOfRange r).Nodup := by
  unfold wordsOfRange
  split <;> simp

theorem mem_wordsOfRange {r : Nat × Nat} {x : Nat} (hw : 4 ≤ r.2) (h : x ∈ wordsOfRange r) :
    r.1 ≤ x ∧ x + 4 ≤ r.1 + r.2 := by
  unfold wordsOfRange at h
  split at h <;> simp at h <;> omega

theorem width_of_mem_ranges {m : RegMap} {r : Nat × Nat} (h : r ∈ m.ranges) : 4 ≤ r.2 := by
  simp only [RegMap.ranges, List.mem_cons, List.not_mem_nil, or_false] at h
  rcases h with rfl | rfl | rfl | rfl | rfl | rfl | rfl | rfl <;> omega

/-- The high half of a pointer on a multiple of 8 does not wrap around. -/
theorem toNat_add_four {p : Ptr} (h : p.toNat % 8 = 0) : (p + 4).toNat = p.toNat + 4 := by
  have := p.isLt
  rw [BitVec.toNat_add, show (4 : Ptr).toNat = 4 from rfl]
  omega

theorem words_of_ranges {m : RegMap} (h : m.Acceptable) :
    m.ranges.flatMap wordsOfRange = (registerOffsets m).map BitVec.toNat := by
  have halign : ∀ p ∈ [m.aPtr, m.bPtr, m.cPtr], (p + 4).toNat = p.toNat + 4 := by
    intro p hp
    refine toNat_add_four (h.1 (p.toNat, 8) ?_)
    simp only [List.mem_cons, List.not_mem_nil, or_false] at hp
    rcases hp with rfl | rfl | rfl <;> simp [RegMap.ranges]
  simp only [registerOffsets, List.map_cons, List.map_nil, halign m.aPtr (by simp), halign m.bPtr (by simp),
    halign m.cPtr (by simp)]
  rfl

/-- R61: under an acceptable map no two of the offsets agree. -/
theorem registerOffsets_nodup {m : RegMap} (h : m.Acceptable) : (registerOffsets m).Nodup := by
  refine List.Nodup.of_map BitVec.toNat ?_
  rw [← words_of_ranges h, List.nodup_flatMap]
  refine ⟨fun r _ => wordsOfRange_nodup r, h.2.imp_of_mem fun {r q} hr hq hdisjoint => ?_⟩
  intro x hx hy
  have hxr := mem_wordsOfRange (width_of_mem_ranges hr) hx
  have hxq := mem_wordsOfRange (width_of_mem_ranges hq) hy
  omega

/-- The same as inequalities, written both ways round for the decoder's tests. -/
theorem registerOffsets_pairwise_ne {m : RegMap} (h : m.Acceptable) : (registerOffsets m).Pairwise fun p q => p ≠ q ∧ q ≠ p :=
  (registerOffsets_nodup h).imp fun hne => ⟨hne, hne.symm⟩

/-! ### Decode of encode (R93, R96) -/

theorem decodeIn_read_four (m : RegMap) (a : Ptr) : decodeIn m (.read a 4) = decodeRead m a .four := decodeIn_read m a .four

theorem decodeIn_read_eight (m : RegMap) (a : Ptr) : decodeIn m (.read a 8) = decodeRead m a .eight :=
  decodeIn_read m a .eight

theorem decodeIn_write_four (m : RegMap) (a : Ptr) (v : Word) :
    decodeIn m (.write a (bytesLe v.toNat 4)) = decodeWrite m a (.four v) := decodeIn_write m a (.four v)

theorem decodeIn_write_eight (m : RegMap) (a p : Ptr) :
    decodeIn m (.write a (bytesLe p.toNat 8)) = decodeWrite m a (.eight p) := decodeIn_write m a (.eight p)

/-- Settles O1: the two fall-through rows by their conditions; every other row because no earlier test of the decoder
names its offset, the offsets of an acceptable map being distinct. -/
theorem decodeOfEncodeIsTheOperation : Obligations.DecodeOfEncodeIsTheOperation := by
  intro m hm i t hwf henc
  have hne := registerOffsets_pairwise_ne hm
  simp only [registerOffsets, List.pairwise_cons, List.forall_mem_cons, List.not_mem_nil, false_imp_iff, implies_true,
    List.Pairwise.nil, and_true, BitVec.ofNat_eq_ofNat] at hne
  cases i with
  | engStart | engRdA | engRdB | engCompute | engWrC | engDone | engError | ctlReset | ctlStart | irqEval | por => cases henc
  | accBadlen t =>
    cases henc
    exact decodeIn_of_illegalLength m hwf
  | rdUndef a len =>
    cases henc
    exact (decodeIn_read m a len).trans (decodeRead_of_undefinedAt hwf)
  | wrUndef a d =>
    cases henc
    exact (decodeIn_write m a d).trans (decodeWrite_of_undefinedAt hwf)
  | rdControl | rdStatus | rdDimN | rdIntStatus | rdIntEnable =>
    cases henc
    simp [decodeRead, hne]
  | rdAPtr | rdAPtrLo | rdAPtrHi | rdBPtr | rdBPtrLo | rdBPtrHi | rdCPtr | rdCPtrLo | rdCPtrHi =>
    cases henc
    simp [decodeIn_read_four, decodeIn_read_eight, decodeRead, hne]
  | wrControl | wrStatus | wrDimN | wrIntStatus | wrIntEnable =>
    cases henc
    simp [decodeWrite, hne]
  | wrAPtr | wrAPtrLo | wrAPtrHi | wrBPtr | wrBPtrLo | wrBPtrHi | wrCPtr | wrCPtrLo | wrCPtrHi =>
    cases henc
    simp [decodeIn_write_four, decodeIn_write_eight, decodeWrite, decodeWriteHigh, hne]

/-! ### Encode of decode (R93) -/

/-- The operation is well-formed and the transaction is its own (R93). -/
def Selects (m : RegMap) (t : Transaction) (i : Instr) : Prop := i.wellFormedIn m = true ∧ encodeIn m i = some t

theorem selects_ite {m : RegMap} {t : Transaction} {p : Prop} [Decidable p] {i j : Instr} (hi : p → Selects m t i)
    (hj : ¬p → Selects m t j) : Selects m t (if p then i else j) := by
  by_cases h : p
  · rw [if_pos h]; exact hi h
  · rw [if_neg h]; exact hj h

theorem decodeRead_selects (m : RegMap) (a : Ptr) (len : AccessLen) :
    Selects m (.read a len.bytes) (decodeRead m a len) := by
  cases len with
  | four =>
    simp only [decodeRead, and_true]
    repeat refine selects_ite (by rintro rfl; exact ⟨rfl, rfl⟩) fun _ => ?_
    exact ⟨(undefinedAt_iff m a .four).mpr
      ⟨by and_intros <;> assumption, by and_intros <;> assumption, fun _ => by and_intros <;> assumption⟩, rfl⟩
  | eight =>
    simp only [decodeRead, reduceCtorEq, and_false, if_false]
    repeat refine selects_ite (by rintro rfl; exact ⟨rfl, rfl⟩) fun _ => ?_
    exact ⟨(undefinedAt_iff m a .eight).mpr ⟨by and_intros <;> assumption, by and_intros <;> assumption, nofun⟩, rfl⟩

theorem decodeWrite_selects (m : RegMap) (a : Ptr) (d : WriteData) :
    Selects m (.write a d.bytes) (decodeWrite m a d) := by
  cases d with
  | four v =>
    simp only [decodeWrite, decodeWriteHigh]
    repeat refine selects_ite (by rintro rfl; exact ⟨rfl, rfl⟩) fun _ => ?_
    exact ⟨(undefinedAt_iff m a .four).mpr
      ⟨by and_intros <;> assumption, by and_intros <;> assumption, fun _ => by and_intros <;> assumption⟩, rfl⟩
  | eight p =>
    simp only [decodeWrite, decodeWriteHigh]
    repeat refine selects_ite (by rintro rfl; exact ⟨rfl, rfl⟩) fun _ => ?_
    exact ⟨(undefinedAt_iff m a .eight).mpr ⟨by and_intros <;> assumption, by and_intros <;> assumption, nofun⟩, rfl⟩

/-- R93: whatever the map, the decoder's answer is well-formed and has the transaction decoded. -/
theorem decodeIn_selects (m : RegMap) (t : Transaction) : Selects m t (decodeIn m t) := by
  obtain ⟨a, len, rfl⟩ | ⟨a, d, rfl⟩ | hillegal := transaction_cases t
  · rw [decodeIn_read]
    exact decodeRead_selects m a len
  · rw [decodeIn_write]
    exact decodeWrite_selects m a d
  · rw [decodeIn_of_illegalLength m hillegal]
    exact ⟨hillegal, rfl⟩

/-- Settles O2: each test of the decoder that succeeds names the offset, and the last row is reached only past them all. -/
theorem encodeOfDecodeIsTheTransaction : Obligations.EncodeOfDecodeIsTheTransaction := decodeIn_selects

/-! ### Undefined addresses of the default map (R97) -/

theorem decodeRead_eq_rdUndef_iff (m : RegMap) (a : Ptr) (len : AccessLen) :
    decodeRead m a len = .rdUndef a len ↔ m.undefinedAt a len = true :=
  ⟨fun h => by simpa only [h, Instr.wellFormedIn] using (decodeRead_selects m a len).1, decodeRead_of_undefinedAt⟩

theorem decodeWrite_eq_wrUndef_iff (m : RegMap) (a : Ptr) (d : WriteData) :
    (∃ e, decodeWrite m a d = .wrUndef a e) ↔ m.undefinedAt a d.len = true := by
  refine ⟨?_, fun h => ⟨d, decodeWrite_of_undefinedAt h⟩⟩
  rintro ⟨e, he⟩
  have hbytes : d.bytes = e.bytes := by simpa [he, encodeIn] using (decodeWrite_selects m a d).2.symm
  have hlen : d.len = e.len := accessLen_bytes_injective (by simpa using congrArg List.length hbytes)
  simpa only [he, Instr.wellFormedIn, hlen] using (decodeWrite_selects m a d).1

/-- R97 with the numbers of decision D1: the gaps between the registers, and what is past them or between words. -/
theorem undefinedAt_regMap_iff (a : Ptr) (len : AccessLen) : Config.regMap.undefinedAt a len = true ↔
    a = 0x0C ∨ 0x30 ≤ a.toNat ∨ a.toNat % 4 ≠ 0 ∨ (len = .eight ∧ (a = 0x14 ∨ a = 0x1C ∨ a = 0x24)) := by
  have hlt := a.isLt
  rw [undefinedAt_iff]
  cases len <;> simp [Config.regMap, ← BitVec.toNat_inj] <;> omega

/-- Settles O5: the decoder's fall-through rows are those whose operands are undefined, and the map's numbers say which. -/
theorem undefinedAddressesOfTheDefaultMap : Obligations.UndefinedAddressesOfTheDefaultMap := by
  intro a len buf hbuf undefined
  obtain ⟨d, -, rfl, -⟩ | ⟨-, hillegal⟩ := writeData_cases buf
  · obtain rfl : d.len = len := accessLen_bytes_injective ((writeData_bytes_length d).symm.trans hbuf)
    simp only [decode, decodeIn_read, decodeIn_write, decodeRead_eq_rdUndef_iff, decodeWrite_eq_wrUndef_iff,
      undefinedAt_regMap_iff]
    exact ⟨Iff.rfl, Iff.rfl⟩
  · exact absurd (illegalLength_iff.mpr hillegal) (by rw [hbuf, len_bytes_legal]; exact Bool.false_ne_true)

end Sys2Proof.Machine
end

section
/-!
PROOFS. What a completed operation has done, said once over all 42 operations, and the statements that read one piece of the
state off it: the writers of the registers (R31), the line and the pending bit (R188, R271), the edge record (R47), the
phase (R230), the marks (R46) and what a bus transaction leaves alone (R232).
-/

namespace Sys2Proof.Machine

open Sys2Proof

/-! ### The effect of an operation -/

/-- The operations that change no device state: every read, the rejection and the ignored writes (R124, R127, R146, R148). -/
def isQuiet : Instr → Bool
  | .accBadlen _ | .wrStatus _ | .wrUndef _ _ => true
  | i => isRead i

/-- What a completed operation has done, as its whole next state; an engine operation with the guard it had. -/
inductive Effect (s : State) : Instr → State → Prop where
  | quiet (i : Instr) (l : List Event) (r : Option Response) (hi : isQuiet i = true)
      (hl : ∀ log, levelOfLog (log ++ l) = levelOfLog log) : Effect s i { s with log := s.log ++ l, resp := r }
  | jobWrite (i : Instr) (hi : writesJobRegister i = true) : Effect s i (afterJobWrite s (registersAfter s.regs i))
  | controlReset (d : WriteData) (hreset : runsReset (.wrControl d) = true) :
      Effect s (.wrControl d) ((afterReset s).respond .ok [])
  | controlStart (d : WriteData) (hreset : runsReset (.wrControl d) = false)
      (hstart : ((narrowValue d).getLsbD 0 && s.regs.status.getLsbD 0) = true) :
      Effect s (.wrControl d) ((afterStart (s.setControl (narrowValue d))).respond .ok [])
  | controlStore (d : WriteData) (hreset : runsReset (.wrControl d) = false)
      (hstart : ((narrowValue d).getLsbD 0 && s.regs.status.getLsbD 0) = false) :
      Effect s (.wrControl d) ((s.setControl (narrowValue d)).respond .ok [])
  | acknowledge (d : WriteData) : Effect s (.wrIntStatus d)
      ((irqEval (s.setIntStatus (s.regs.intStatus &&& ~~~(narrowValue d)))).respond .ok [])
  | enable (d : WriteData) : Effect s (.wrIntEnable d) ((irqEval (s.setIntEnable (narrowValue d))).respond .ok [])
  | reset : Effect s .ctlReset (afterReset s)
  | start (hidle : s.regs.status.getLsbD 0 = true) : Effect s .ctlStart (afterStart s)
  | startIgnored (hidle : s.regs.status.getLsbD 0 = false) : Effect s .ctlStart s
  | evaluate : Effect s .irqEval (irqEval s)
  | powerOn : Effect s .por (powerOn s)
  | takeJob (hphase : s.eng.phase = .wait) (hwake : s.wakePending = true) : Effect s .engStart
      (((s.setWake false).setEngJob s.job).setPhase (if dimensionInvalid s.job.n then .fail else .rdA))
  | readAFailed (rest : List Answer) (hphase : s.eng.phase = .rdA) : Effect s .engRdA (afterReadAFailed s rest)
  | readA (rest : List Answer) (hphase : s.eng.phase = .rdA) : Effect s .engRdA (afterReadA s rest)
  | readBFailed (rest : List Answer) (hphase : s.eng.phase = .rdB) : Effect s .engRdB (afterReadBFailed s rest)
  | readB (rest : List Answer) (hphase : s.eng.phase = .rdB) : Effect s .engRdB (afterReadB s rest)
  | compute (hphase : s.eng.phase = .compute) : Effect s .engCompute
      ((s.setBufC (matMul s.eng.job.n.toNat s.eng.bufA s.eng.bufB)).setPhase .wrC)
  | writeFailed (rest : List Answer) (hphase : s.eng.phase = .wrC) : Effect s .engWrC (afterWriteFailed s rest)
  | write (rest : List Answer) (hphase : s.eng.phase = .wrC) : Effect s .engWrC (afterWrite s rest)
  | done (hphase : s.eng.phase = .fin) : Effect s .engDone (reportSuccess s)
  | error (hphase : s.eng.phase = .fail) : Effect s .engError (reportFailure s)

theorem levelOfLog_append_nil (log : List Event) : levelOfLog (log ++ []) = levelOfLog log := by
  rw [List.append_nil]

theorem levelOfLog_append_edge (log : List Event) (b : Bool) : levelOfLog (log ++ [.edge b]) = b := by
  rw [levelOfLog, List.foldl_append]
  rfl

theorem levelOfLog_append_of_not_edge {e : Event} (h : ∀ b, e ≠ .edge b) (log : List Event) :
    levelOfLog (log ++ [e]) = levelOfLog log := by
  rw [levelOfLog, List.foldl_append]
  cases e with
  | edge b => exact absurd rfl (h b)
  | _ => rfl

theorem levelOfLog_append_dma (log : List Event) (d : Dir) (a : Ptr) (n : Nat) (o : Answer) :
    levelOfLog (log ++ [.dma d a n o]) = levelOfLog log := levelOfLog_append_of_not_edge (e := .dma d a n o) nofun log

/-- The effect of an operation that writes no device state is an entry of the record at most, and a response. -/
theorem exec_of_isQuiet {i : Instr} (h : isQuiet i = true) (s : State) : ∃ l r,
    exec i s = .next { s with log := s.log ++ l, resp := r } ∧ ∀ log, levelOfLog (log ++ l) = levelOfLog log := by
  have quiet : { s with log := s.log ++ [] } = s := by rw [List.append_nil]
  cases i with
  | wrStatus | wrUndef | rdUndef => exact ⟨_, _, rfl, levelOfLog_append_of_not_edge nofun⟩
  | accBadlen | rdControl | rdStatus | rdDimN | rdIntStatus | rdIntEnable | rdAPtr | rdAPtrLo | rdAPtrHi | rdBPtr
  | rdBPtrLo | rdBPtrHi | rdCPtr | rdCPtrLo | rdCPtrHi =>
    refine ⟨[], ?_, ?_, levelOfLog_append_nil⟩
    rotate_left
    · conv_lhs => rw [← quiet]
      rfl
  | _ => cases h

theorem exec_of_writesJobRegister {i : Instr} (h : writesJobRegister i = true) (s : State) :
    exec i s = .next (afterJobWrite s (registersAfter s.regs i)) := by
  cases i with
  | wrDimN d => exact dimensionWriteStores s d
  | wrAPtr p | wrBPtr p | wrCPtr p => simp only [pointerRegisterWrites s p 0, registersAfter]
  | wrAPtrLo v | wrAPtrHi v | wrBPtrLo v | wrBPtrHi v | wrCPtrLo v | wrCPtrHi v =>
    simp only [pointerRegisterWrites s 0 v, registersAfter]
  | _ => cases h

theorem exec_wrControl_effect {d : WriteData} {s u : State} (h : exec (.wrControl d) s = .next u) :
    Effect s (.wrControl d) u := by
  cases h.symm.trans (controlWriteDecisionTable s d)
  cases hreset : (narrowValue d).getLsbD 1 with
  | true => exact .controlReset d hreset
  | false =>
    cases hstart : (narrowValue d).getLsbD 0 && s.regs.status.getLsbD 0 with
    | true => exact .controlStart d hreset hstart
    | false => exact .controlStore d hreset hstart

/-- Every completed operation has its effect. -/
theorem exec_effect {i : Instr} {s u : State} (h : exec i s = .next u) : Effect s i u := by
  by_cases hquiet : isQuiet i = true
  · obtain ⟨l, r, he, hl⟩ := exec_of_isQuiet hquiet s
    cases h.symm.trans he
    exact .quiet i l r hquiet hl
  by_cases hjob : writesJobRegister i = true
  · cases h.symm.trans (exec_of_writesJobRegister hjob s)
    exact .jobWrite i hjob
  cases i with
  | wrControl d => exact exec_wrControl_effect h
  | wrIntStatus d => cases h.symm.trans (exec_wrIntStatus d s); exact .acknowledge d
  | wrIntEnable d => cases h.symm.trans (exec_wrIntEnable d s); exact .enable d
  | ctlReset => cases h.symm.trans (resetRestoresTheRegisters s); exact .reset
  | ctlStart =>
    obtain ⟨haccepted, hignored⟩ := startCapturesTheJob s
    cases hidle : s.regs.status.getLsbD 0 with
    | true => cases h.symm.trans (haccepted hidle); exact .start hidle
    | false => cases h.symm.trans (hignored hidle); exact .startIgnored hidle
  | irqEval => cases h; exact .evaluate
  | por => cases h; exact .powerOn
  | engStart =>
    obtain ⟨hphase, hwake, rfl⟩ := execEngStart_inv h
    exact .takeJob hphase hwake
  | engRdA =>
    obtain ⟨hphase, ⟨rest, t, -, rfl, rfl⟩ | ⟨rest, -, rfl⟩⟩ := execEngRdA_inv h
    · exact .readAFailed rest hphase
    · exact .readA rest hphase
  | engRdB =>
    obtain ⟨hphase, ⟨rest, t, -, rfl, rfl⟩ | ⟨rest, -, rfl⟩⟩ := execEngRdB_inv h
    · exact .readBFailed rest hphase
    · exact .readB rest hphase
  | engCompute =>
    obtain ⟨hphase, rfl⟩ := execEngCompute_inv h
    exact .compute hphase
  | engWrC =>
    obtain ⟨hphase, ⟨rest, -, rfl⟩ | ⟨rest, -, rfl⟩⟩ := execEngWrC_inv h
    · exact .writeFailed rest hphase
    · exact .write rest hphase
  | engDone =>
    obtain ⟨hphase, rfl⟩ := execEngDone_inv h
    exact .done hphase
  | engError =>
    obtain ⟨hphase, rfl⟩ := execEngError_inv h
    exact .error hphase
  | wrDimN | wrAPtr | wrAPtrLo | wrAPtrHi | wrBPtr | wrBPtrLo | wrBPtrHi | wrCPtr | wrCPtrLo | wrCPtrHi => exact absurd rfl hjob
  | _ => exact absurd rfl hquiet

/-! ### The registers (R31) -/

theorem registersAfter_of_isQuiet {i : Instr} (h : isQuiet i = true) (r : RegFile) : registersAfter r i = r := by
  cases i with
  | wrControl | wrDimN | wrAPtr | wrAPtrLo | wrAPtrHi | wrBPtr | wrBPtrLo | wrBPtrHi | wrCPtr | wrCPtrLo | wrCPtrHi
  | wrIntStatus | wrIntEnable | engDone | engError | ctlReset | ctlStart | por => cases h
  | _ => rfl

theorem Effect.regs {i : Instr} {s u : State} (h : Effect s i u) : u.regs = registersAfter s.regs i := by
  cases h with
  | quiet i l r hi hl => exact (registersAfter_of_isQuiet hi s.regs).symm
  | controlReset d hreset => exact (if_pos hreset).symm
  | controlStart d hreset hstart =>
    exact ((if_neg (Bool.eq_false_iff.mp hreset)).trans (if_pos hstart)).symm
  | controlStore d hreset hstart =>
    exact ((if_neg (Bool.eq_false_iff.mp hreset)).trans (if_neg (Bool.eq_false_iff.mp hstart))).symm
  | start hidle => exact (if_pos hidle).symm
  | startIgnored hidle => exact (if_neg (Bool.eq_false_iff.mp hidle)).symm
  | acknowledge | enable | evaluate | done => exact irqEval_regs _
  | powerOn => exact powerOn_regs s
  | _ => rfl

/-- Settles O17: each effect writes the registers the table gives. -/
theorem writersOfEachRegister : Obligations.WritersOfEachRegister := fun _ _ _ h => (exec_effect h).regs

/-! ### The line and the pending bit (R187, R188, R271) -/

theorem lineDerived_iff (s : State) : s.LineDerived ↔ s.irqLine = irqValue s.regs := by
  rw [State.LineDerived, irqValue_eq]

/-- An operation drives the line from the registers it leaves, or touches neither the line nor what it derives from. -/
theorem Effect.line {i : Instr} {s u : State} (h : Effect s i u) :
    u.irqLine = irqValue u.regs ∨ (u.irqLine = s.irqLine ∧ irqValue u.regs = irqValue s.regs) := by
  cases h with
  | jobWrite i hi =>
    refine .inr ⟨rfl, ?_⟩
    cases i with
    | wrDimN | wrAPtr | wrAPtrLo | wrAPtrHi | wrBPtr | wrBPtrLo | wrBPtrHi | wrCPtr | wrCPtrLo | wrCPtrHi => rfl
    | _ => cases hi
  | acknowledge | enable | evaluate => exact .inl (by simp)
  | reset | controlReset => exact .inl irqValue_powerOn.symm
  | powerOn => exact .inl (by rw [powerOn_irqLine, powerOn_regs, irqValue_powerOn])
  | done => exact .inl (by simp [reportSuccess])
  | _ => exact .inr ⟨rfl, rfl⟩

/-- R187: an operation keeps the line's equation. -/
theorem Effect.lineDerived {i : Instr} {s u : State} (h : Effect s i u) (hline : s.LineDerived) : u.LineDerived := by
  rw [lineDerived_iff] at *
  obtain hdriven | ⟨hkept, hvalue⟩ := h.line
  · exact hdriven
  · rw [hkept, hline, hvalue]

theorem intStatusLegal_and {x : Word} (h : IntStatusLegal x) (y : Word) : IntStatusLegal (x &&& y) := by
  obtain rfl | rfl := h
  · exact .inl (BitVec.zero_and)
  · have hlt : ((1 : Word) &&& y).toNat ≤ 1 := by
      rw [BitVec.toNat_and]
      exact Nat.and_le_left
    obtain hzero | hone : ((1 : Word) &&& y).toNat = 0 ∨ ((1 : Word) &&& y).toNat = 1 := by omega
    · exact .inl (BitVec.eq_of_toNat_eq hzero)
    · exact .inr (BitVec.eq_of_toNat_eq hone)

theorem intStatusLegal_or_one {x : Word} (h : IntStatusLegal x) : x ||| 0x00000001 = 0x00000001 := by
  obtain rfl | rfl := h <;> rfl

/-- The line where INT_STATUS is legal: pending and enabled (R30). -/
theorem irqValue_of_legal {r : RegFile} (h : IntStatusLegal r.intStatus) :
    irqValue r = (r.intStatus.getLsbD 0 && r.intEnable.getLsbD 0) := by
  rw [irqValue_eq, line_of_bits h]

/-- The writers of INT_STATUS (R31): a completion, an acknowledge, and what resets all registers. -/
theorem intStatus_writers (r : RegFile) (i : Instr) :
    i = .engDone ∨ (∃ d, i = .wrIntStatus d) ∨ ((runsReset i = true ∨ i = .por) ∧ registersAfter r i = RegFile.powerOn) ∨
    ((registersAfter r i).intStatus = r.intStatus ∧ ¬(runsReset i = true ∨ i = .por)) := by
  cases i with
  | engDone => exact .inl rfl
  | wrIntStatus d => exact .inr (.inl ⟨d, rfl⟩)
  | ctlReset => exact .inr (.inr (.inl ⟨.inl rfl, rfl⟩))
  | por => exact .inr (.inr (.inl ⟨.inr rfl, rfl⟩))
  | ctlStart =>
    refine .inr (.inr (.inr ⟨?_, by simp [runsReset]⟩))
    rw [registersAfter]
    split_ifs <;> rfl
  | wrControl d =>
    by_cases hreset : (narrowValue d).getLsbD 1 = true
    · exact .inr (.inr (.inl ⟨.inl hreset, if_pos hreset⟩))
    · refine .inr (.inr (.inr ⟨?_, not_or_intro hreset nofun⟩))
      rw [registersAfter, if_neg hreset]
      split_ifs <;> rfl
  | _ => exact .inr (.inr (.inr ⟨rfl, by simp [runsReset]⟩))

theorem intStatusLegal_registersAfter {r : RegFile} (h : IntStatusLegal r.intStatus) (i : Instr) :
    IntStatusLegal (registersAfter r i).intStatus := by
  obtain rfl | ⟨d, rfl⟩ | ⟨-, hreset⟩ | ⟨hkept, -⟩ := intStatus_writers r i
  · exact .inr (intStatusLegal_or_one h)
  · exact intStatusLegal_and h _
  · rw [hreset]
    exact .inl rfl
  · rwa [hkept]

theorem statusLegal_registersAfter {r : RegFile} (h : StatusLegal r.status) (i : Instr) :
    StatusLegal (registersAfter r i).status := by
  cases i with
  | wrControl d =>
    simp only [registersAfter]
    split_ifs
    · exact .inl rfl
    · exact .inr (.inl rfl)
    · exact h
  | ctlReset | por => exact .inl rfl
  | ctlStart =>
    simp only [registersAfter]
    split_ifs
    · exact .inr (.inl rfl)
    · exact h
  | engDone => exact .inr (.inr (.inl rfl))
  | engError => exact .inr (.inr (.inr rfl))
  | _ => exact h

theorem donePending_after_engDone (r : RegFile) : (registersAfter r .engDone).intStatus.getLsbD 0 = true := by
  simp [registersAfter]

theorem donePending_after_wrIntStatus (r : RegFile) (d : WriteData) :
    (registersAfter r (.wrIntStatus d)).intStatus.getLsbD 0 =
      (r.intStatus.getLsbD 0 && !(narrowValue d).getLsbD 0) := by
  simp [registersAfter]

theorem irqValue_after_engDone {r : RegFile} (h : IntStatusLegal r.intStatus) :
    irqValue (registersAfter r .engDone) = r.intEnable.getLsbD 0 := by
  rw [irqValue_of_legal (intStatusLegal_registersAfter h .engDone), donePending_after_engDone, Bool.true_and]
  rfl

theorem irqValue_after_wrIntEnable {r : RegFile} (h : IntStatusLegal r.intStatus) (d : WriteData) :
    irqValue (registersAfter r (.wrIntEnable d)) = (r.intStatus.getLsbD 0 && (narrowValue d).getLsbD 0) :=
  irqValue_of_legal h

theorem irqValue_after_wrIntStatus {r : RegFile} (h : IntStatusLegal r.intStatus) (d : WriteData) :
    irqValue (registersAfter r (.wrIntStatus d)) =
      ((r.intStatus.getLsbD 0 && !(narrowValue d).getLsbD 0) && r.intEnable.getLsbD 0) := by
  rw [irqValue_of_legal (intStatusLegal_registersAfter h (.wrIntStatus d)), donePending_after_wrIntStatus]
  rfl

/-- Settles O27: before and after, the line is pending and enabled; so where it changes, the table of writers says which
of the two bits the operation wrote. -/
theorem lineChangesOnlyWhereListed : Obligations.LineChangesOnlyWhereListed := by
  intro i s u hline hlegal h hne pending enabled
  have heffect := exec_effect h
  have hafter : u.irqLine = irqValue (registersAfter s.regs i) := by
    rw [← heffect.regs]
    exact (lineDerived_iff u).mp (heffect.lineDerived hline)
  have hbefore : irqValue s.regs = (pending && enabled) := irqValue_of_legal hlegal
  rw [hafter, (lineDerived_iff s).mp hline] at hne
  rw [hafter]
  cases i with
  | engDone =>
    rw [irqValue_after_engDone hlegal, hbefore] at hne
    obtain ⟨he, hp⟩ := (by decide : ∀ p e : Bool, e ≠ (p && e) → e = true ∧ p = false) pending enabled hne
    exact .inl ⟨rfl, (irqValue_after_engDone hlegal).trans he, he, hp⟩
  | wrIntEnable d =>
    rw [irqValue_after_wrIntEnable hlegal, hbefore] at hne
    obtain ⟨hp, hev⟩ := (by decide : ∀ p e v : Bool, (p && v) ≠ (p && e) → p = true ∧ e ≠ v) pending enabled _ hne
    have hvalue : irqValue (registersAfter s.regs (.wrIntEnable d)) = (pending && (narrowValue d).getLsbD 0) :=
      irqValue_after_wrIntEnable hlegal d
    exact .inr (.inl ⟨d, rfl, hp, by rw [hvalue, hp, Bool.true_and], hev⟩)
  | wrIntStatus d =>
    rw [irqValue_after_wrIntStatus hlegal, hbefore] at hne
    obtain ⟨hv, hlow⟩ := (by decide : ∀ p e v : Bool, ((p && !v) && e) ≠ (p && e) → v = true ∧ ((p && !v) && e) = false)
      pending enabled _ hne
    exact .inr (.inr (.inl ⟨d, rfl, (irqValue_after_wrIntStatus hlegal d).trans hlow, hv⟩))
  | wrControl d =>
    by_cases hreset : (narrowValue d).getLsbD 1 = true
    · rw [registersAfter, if_pos hreset]
      exact .inr (.inr (.inr (.inl ⟨hreset, irqValue_powerOn⟩)))
    · rw [registersAfter, if_neg hreset] at hne
      exact absurd (by split_ifs <;> rfl) hne
  | ctlReset => exact .inr (.inr (.inr (.inl ⟨rfl, irqValue_powerOn⟩)))
  | por => exact .inr (.inr (.inr (.inr ⟨rfl, irqValue_powerOn⟩)))
  | ctlStart => exact absurd (by rw [registersAfter]; split_ifs <;> rfl) hne
  | _ => exact absurd rfl hne

/-- Settles O28: by the writers of INT_STATUS; a masked pending bit does not reach the line ENG.DONE drives. -/
theorem pendingBitIsSetAndClearedAsListed : Obligations.PendingBitIsSetAndClearedAsListed := by
  refine ⟨fun i s u h => ?_, fun s hphase => ?_⟩
  · rw [(exec_effect h).regs]
    obtain rfl | ⟨d, rfl⟩ | ⟨hwriter, hreset⟩ | ⟨hkept, hother⟩ := intStatus_writers s.regs i
    · exact ⟨fun _ _ => rfl, fun _ hclear => absurd hclear (by simp [donePending_after_engDone]), by simp [runsReset]⟩
    · rw [donePending_after_wrIntStatus]
      refine ⟨fun hclear hset => ?_, fun hset hclear => .inl ⟨d, rfl, ?_⟩, by simp [runsReset]⟩
      · rw [hclear, Bool.false_and] at hset
        cases hset
      · rwa [hset, Bool.true_and, Bool.not_eq_false'] at hclear
    · rw [hreset]
      exact ⟨fun _ hset => absurd hset (by decide), fun _ _ => .inr hwriter, fun _ => ⟨rfl, rfl⟩⟩
    · rw [hkept]
      exact ⟨fun hclear hset => absurd (hclear.symm.trans hset) (by decide),
        fun hset hclear => absurd (hclear.symm.trans hset) (by decide), fun hwriter => absurd hwriter hother⟩
  · have hregs : (reportSuccess s).regs = registersAfter s.regs .engDone := (Effect.done hphase).regs
    have hline : (reportSuccess s).irqLine = irqValue (reportSuccess s).regs := by simp [reportSuccess]
    refine ⟨reportSuccess s, execEngDone_next hphase, by rw [hregs, donePending_after_engDone], fun hlegal hmasked => ?_, ?_⟩
    · rw [hline, hregs, irqValue_after_engDone hlegal, hmasked]
    · exact ⟨_, (narrowRegisterReads (reportSuccess s) .four).2.2.2.1, rfl⟩

/-- Settles O26: the two bits after an acknowledge and after a completion, and the edge of the line between its values. -/
theorem acknowledgeAndMergedInterrupts : Obligations.AcknowledgeAndMergedInterrupts := by
  intro s hline hlegal pending enabled
  have hbefore : s.irqLine = (pending && enabled) := ((lineDerived_iff s).mp hline).trans (irqValue_of_legal hlegal)
  refine ⟨fun d hd => ?_, fun hphase => ?_⟩
  · have hcleared : s.regs.intStatus &&& ~~~(narrowValue d) = 0 := by
      obtain hzero | hone := intStatusLegal_and hlegal (~~~(narrowValue d))
      · exact hzero
      · have hbit : (s.regs.intStatus &&& ~~~(narrowValue d)).getLsbD 0 = (pending && !(narrowValue d).getLsbD 0) :=
          donePending_after_wrIntStatus s.regs d
        rw [hone, hd, Bool.not_true, Bool.and_false] at hbit
        exact absurd hbit (by decide)
    refine ⟨_, exec_wrIntStatus d s, by simp [hcleared], by simp [hcleared, irqValue], ?_⟩
    have hlow : irqValue (s.setIntStatus 0).regs = false := by simp [irqValue]
    rw [hcleared, irqEval_of_irqValue hlow]
    simp only [State.respond_log, State.setIntStatus_log, State.setIntStatus_irqLine, hbefore, logEdge]
    cases pending && enabled <;> rfl
  · have hvalue : irqValue (registersAfter s.regs .engDone) = enabled := irqValue_after_engDone hlegal
    refine ⟨_, execEngDone_next hphase, ?_⟩
    rw [reportSuccess, irqEval_of_irqValue hvalue]
    refine ⟨intStatusLegal_or_one hlegal, rfl, ?_⟩
    simp only [toWait_log, State.setIntStatus_log, State.setStatus_log, State.setIntStatus_irqLine,
      State.setStatus_irqLine, hbefore, logEdge]
    cases pending <;> cases enabled <;> rfl

/-! ### The edge record (R47) -/

theorem levelOfLog_logEdge {log : List Event} {old : Bool} (h : levelOfLog log = old) (new : Bool) :
    levelOfLog (logEdge log old new) = new := by
  unfold logEdge
  split
  · rwa [← ‹old = new›]
  · exact levelOfLog_append_edge log new

theorem levelOfLog_irqEval {s : State} (h : levelOfLog s.log = s.irqLine) :
    levelOfLog (irqEval s).log = (irqEval s).irqLine := by
  rw [irqEval_eq]
  exact levelOfLog_logEdge h _

theorem Effect.edgeRecord {i : Instr} {s u : State} (h : Effect s i u) (hs : levelOfLog s.log = s.irqLine) :
    levelOfLog u.log = u.irqLine := by
  cases h with
  | quiet i l r hi hl => exact (hl s.log).trans hs
  | acknowledge | enable | evaluate | done => exact levelOfLog_irqEval (s := _) hs
  | powerOn => exact levelOfLog_irqEval (s := _) hs
  | reset | controlReset => exact levelOfLog_logEdge hs false
  | readAFailed | readA | readBFailed | readB | writeFailed | write => exact (levelOfLog_append_dma ..).trans hs
  | _ => exact hs

/-- An invariant that does not read the schedule, and that a host's change of its memory and every operation keep, is kept
by every step (R70). -/
theorem step_preserves {P : State → Prop} (hschedule : ∀ s ts, P s → P (s.setSchedule ts))
    (hmemory : ∀ s cs, P s → P (s.setMem (hostChange s.mem cs))) (hexec : ∀ i s u, P s → exec i s = .next u → P u)
    {s u : State} (hs : P s) (h : step s = .next u) : P u := by
  obtain ⟨-, ⟨-, he⟩ | ⟨i, -, he⟩⟩ | ⟨t, ts, -, he⟩ | ⟨ts, -, ⟨-, he⟩ | ⟨i, -, he⟩⟩ | ⟨cs, ts, -, he⟩ | ⟨ts, -, he⟩ :=
    step_cases s
  · cases h.symm.trans he
    exact hs
  · exact hexec i s u hs (he.symm.trans h)
  · exact hexec _ _ u (hschedule s ts hs) (he.symm.trans h)
  · cases h.symm.trans he
    exact hschedule s ts hs
  · exact hexec i _ u (hschedule s ts hs) (he.symm.trans h)
  · cases h.symm.trans he
    exact hmemory (s.setSchedule ts) cs (hschedule s ts hs)
  · exact hexec _ _ u (hschedule s ts hs) (he.symm.trans h)

/-- Settles O29: an operation keeps the record true of the line, and the rest of a step touches neither. -/
theorem edgeRecordFollowsTheLine : Obligations.EdgeRecordFollowsTheLine := fun _ _ hs h =>
  step_preserves (P := fun s => levelOfLog s.log = s.irqLine) (fun _ _ hs => hs) (fun _ _ hs => hs)
    (fun _ _ _ hs h => (exec_effect h).edgeRecord hs) hs h

/-- Settles O58: by the writers of STATUS; the rest of a step touches no register. -/
theorem statusStaysLegal : Obligations.StatusStaysLegal := fun _ _ hs h =>
  step_preserves (P := fun s => StatusLegal s.regs.status) (fun _ _ hs => hs) (fun _ _ hs => hs)
    (fun i _ _ hs h => (exec_effect h).regs ▸ statusLegal_registersAfter hs i) hs h

/-! ### The engine's phase (R230) -/

/-- The format ENG (R91): the engine's own operations. -/
def isEngine : Instr → Bool
  | .engStart | .engRdA | .engRdB | .engCompute | .engWrC | .engDone | .engError => true
  | _ => false

/-- An operation that is neither the engine's nor a power-on leaves the engine, external memory and the environment's lists
as they were, and the latch and the wake too unless it is an accepted START. -/
theorem Effect.frame {i : Instr} {s u : State} (h : Effect s i u) (hi : isEngine i = false) (hpor : i ≠ .por) :
    u.eng = s.eng ∧ u.mem = s.mem ∧ u.answers = s.answers ∧ u.schedule = s.schedule ∧ u.free = s.free ∧
    ((u.job = s.job ∧ u.wakePending = s.wakePending) ∨
     (s.regs.status.getLsbD 0 = true ∧ u.regs.status = 0x00000002 ∧ u.wakePending = true ∧
      u.job = ⟨s.regs.dimN, s.regs.aPtr, s.regs.bPtr, s.regs.cPtr⟩)) := by
  cases h with
  | quiet | jobWrite | controlReset | controlStore | reset | startIgnored => exact ⟨rfl, rfl, rfl, rfl, rfl, .inl ⟨rfl, rfl⟩⟩
  | start hidle => exact ⟨rfl, rfl, rfl, rfl, rfl, .inr ⟨hidle, rfl, rfl, rfl⟩⟩
  | controlStart d hreset hstart =>
    exact ⟨rfl, rfl, rfl, rfl, rfl, .inr ⟨(Bool.and_eq_true_iff.mp hstart).2, rfl, rfl, rfl⟩⟩
  | acknowledge | enable | evaluate => simp
  | powerOn => exact absurd rfl hpor
  | _ => cases hi

theorem isEngine_of_isBus {i : Instr} (h : isBus i = true) : isEngine i = false ∧ i ≠ .por := by
  cases i with
  | engStart | engRdA | engRdB | engCompute | engWrC | engDone | engError | ctlReset | ctlStart | irqEval | por => cases h
  | _ => exact ⟨rfl, nofun⟩

/-- Settles O41: the decoder answers bus operations only, and these leave the engine alone. -/
theorem busTransactionsLeaveTheEngineAlone : Obligations.BusTransactionsLeaveTheEngineAlone := by
  intro t s
  have hbus := decodeIn_isBus Config.regMap t
  obtain ⟨u, hu⟩ := exec_of_isBus hbus s
  obtain ⟨hengine, hpor⟩ := isEngine_of_isBus hbus
  exact ⟨u, hu, (exec_effect hu).frame hengine hpor⟩

/-- Settles O40: only an engine operation writes the phase, each along the edges of its own phase. -/
theorem phaseChangesOnlyAlongTheGraph : Obligations.PhaseChangesOnlyAlongTheGraph := by
  intro i s u h hpor
  cases exec_effect h with
  | takeJob hphase hwake =>
    refine .inr ?_
    cases hn : dimensionInvalid s.job.n <;> simp [phaseEdges, hphase]
  | readAFailed rest hphase | readA rest hphase | readBFailed rest hphase | readB rest hphase | compute hphase
  | writeFailed rest hphase | write rest hphase | done hphase | error hphase =>
    exact .inr (by simp [phaseEdges, hphase, afterReadAFailed, afterReadA, afterReadBFailed, afterReadB, afterWriteFailed,
      afterWrite, reportSuccess, reportFailure])
  | acknowledge | enable | evaluate => exact .inl (by simp)
  | powerOn => exact absurd rfl hpor
  | quiet | jobWrite | controlReset | controlStart | controlStore | reset | start | startIgnored => exact .inl rfl

/-! ### The marks (R46) -/

theorem flags_of_isQuiet {i : Instr} (h : isQuiet i = true) : writesJobRegister i = false ∧ runsReset i = false := by
  cases i with
  | wrControl | wrDimN | wrAPtr | wrAPtrLo | wrAPtrHi | wrBPtr | wrBPtrLo | wrBPtrHi | wrCPtr | wrCPtrLo | wrCPtrHi
  | ctlReset => cases h
  | _ => exact ⟨rfl, rfl⟩

theorem runsReset_of_writesJobRegister {i : Instr} (h : writesJobRegister i = true) : runsReset i = false := by
  cases i with
  | wrControl | ctlReset => cases h
  | _ => rfl

/-- Two operations record a mark, R147's and R162's; the rest but POR keep both. -/
theorem Effect.marks {i : Instr} {s u : State} (h : Effect s i u) (hpor : i ≠ .por) :
    u.marks.writeDuringBusy = (s.marks.writeDuringBusy || (writesJobRegister i && s.jobInFlight)) ∧
    u.marks.resetInFlight = (s.marks.resetInFlight || (runsReset i && s.jobInFlight)) := by
  cases h with
  | quiet i l r hi hl =>
    obtain ⟨hjob, hreset⟩ := flags_of_isQuiet hi
    simp [hjob, hreset]
  | jobWrite i hi => simp [afterJobWrite, hi, runsReset_of_writesJobRegister hi, jobInFlight_eq, Bool.or_assoc]
  | controlReset d hreset => simp [writesJobRegister, hreset, afterReset, jobInFlight_eq, Bool.or_assoc]
  | controlStart d hreset | controlStore d hreset => simp [writesJobRegister, hreset, afterStart]
  | reset => simp [writesJobRegister, runsReset, afterReset, jobInFlight_eq, Bool.or_assoc]
  | powerOn => exact absurd rfl hpor
  | acknowledge | enable | evaluate | done => simp [writesJobRegister, runsReset, reportSuccess]
  | start | startIgnored | takeJob | readAFailed | readA | readBFailed | readB | compute | writeFailed | write | error =>
    exact ⟨(Bool.or_false _).symm, (Bool.or_false _).symm⟩

/-- Settles O57: it is `Effect.marks`. -/
theorem marksAreSticky : Obligations.MarksAreSticky := fun _ _ _ h hpor => (exec_effect h).marks hpor

end Sys2Proof.Machine
end

section
/-!
PROOFS. The invariant of the device (R23, R28, R30, R43, R44, R187) is kept by every step: each clause by the effect of an
operation, and the rest of a step by what it touches.
-/

namespace Sys2Proof.Machine

open Sys2Proof

/-! ### External memory stays canonical -/

theorem Effect.memory {i : Instr} {s u : State} (h : Effect s i u) (hs : Memory.wf s.mem = true) :
    Memory.wf u.mem = true := by
  cases h with
  | write rest hphase => exact writeBytes_wf hs
  | acknowledge | enable | evaluate | powerOn | done => simpa [reportSuccess] using hs
  | _ => exact hs

/-! ### BUSY and the wake (R44) -/

theorem jobInFlight_iff (s : State) : s.jobInFlight = true ↔ s.wakePending = true ∨ s.eng.phase ≠ .wait := by
  simp [jobInFlight_eq]

/-- A state without a mark after an operation had none before, and none of the two was due. -/
theorem Effect.clean {i : Instr} {s u : State} (h : Effect s i u) (hpor : i ≠ .por) (hu : u.Clean) :
    s.Clean ∧ (runsReset i = true → s.jobInFlight = false) := by
  obtain ⟨hwrite, hreset⟩ := h.marks hpor
  simp only [State.Clean, hwrite, hreset, Bool.or_eq_false_iff] at hu
  obtain ⟨⟨hwrite, -⟩, hreset, hdue⟩ := hu
  exact ⟨⟨hwrite, hreset⟩, fun hrun => by rwa [hrun, Bool.true_and] at hdue⟩

/-- A working engine of a state without a mark is BUSY with no wake pending. -/
theorem State.Inv.of_phase {s : State} {p : Phase} (hs : s.Inv) (hclean : s.Clean) (hphase : s.eng.phase = p)
    (hp : p ≠ .wait) : s.regs.status = 0x00000002 ∧ s.wakePending = false := by
  subst hphase
  exact ⟨(hs.busy hclean).mp ((jobInFlight_iff s).mpr (.inr hp)),
    Bool.eq_false_iff.mpr fun hwake => hp (hs.wake hclean hwake)⟩

/-- A state without a mark whose STATUS.IDLE is 1 has no job in flight. -/
theorem State.Inv.phase_of_idle {s : State} (hs : s.Inv) (hclean : s.Clean) (hidle : s.regs.status.getLsbD 0 = true) :
    s.eng.phase = .wait := by
  by_contra hphase
  obtain ⟨hbusy, -⟩ := hs.of_phase hclean rfl hphase
  rw [hbusy] at hidle
  exact absurd hidle (by decide)

theorem status_of_writesJobRegister {i : Instr} (h : writesJobRegister i = true) (r : RegFile) :
    (registersAfter r i).status = r.status := by
  cases i with
  | wrDimN | wrAPtr | wrAPtrLo | wrAPtrHi | wrBPtr | wrBPtrLo | wrBPtrHi | wrCPtr | wrCPtrLo | wrCPtrHi => rfl
  | _ => cases h

/-- The two clauses that a mark takes away (R44). -/
abbrev BusyAndWake (s : State) : Prop :=
  (s.jobInFlight = true ↔ s.regs.status = 0x00000002) ∧ (s.wakePending = true → s.eng.phase = .wait)

theorem Effect.eq_powerOn {s u : State} (h : Effect s .por u) : u = Machine.powerOn s := by
  cases h with
  | powerOn => rfl
  | quiet i l r hi => cases hi
  | jobWrite i hi => cases hi

theorem busyAndWake_of_idle {s : State} (hidle : s.jobInFlight = false) (hstatus : s.regs.status ≠ 0x00000002) :
    BusyAndWake s :=
  ⟨iff_of_false (Bool.eq_false_iff.mp hidle) hstatus,
    fun hwake => absurd ((jobInFlight_iff s).mpr (.inl hwake)) (Bool.eq_false_iff.mp hidle)⟩

theorem busyAndWake_of_working {s : State} (hphase : s.eng.phase ≠ .wait) (hwake : s.wakePending = false)
    (hstatus : s.regs.status = 0x00000002) : BusyAndWake s :=
  ⟨iff_of_true ((jobInFlight_iff s).mpr (.inr hphase)) hstatus, fun h => absurd h (Bool.eq_false_iff.mp hwake)⟩

theorem Effect.busyAndWake {i : Instr} {s u : State} (h : Effect s i u) (hs : s.Inv) (hu : u.Clean) : BusyAndWake u := by
  obtain rfl | hpor := eq_or_ne i .por
  · rw [h.eq_powerOn]
    exact busyAndWake_of_idle (by simp [State.jobInFlight]) (by rw [powerOn_regs]; decide)
  obtain ⟨hclean, hreset⟩ := h.clean hpor hu
  have hbusy := hs.busy hclean
  have hwake := hs.wake hclean
  cases h with
  | quiet | startIgnored | controlStore => exact ⟨hbusy, hwake⟩
  | jobWrite i hi => exact ⟨by rw [afterJobWrite, status_of_writesJobRegister hi]; exact hbusy, hwake⟩
  | controlReset d hrun => exact busyAndWake_of_idle (hreset hrun) (by simp [afterReset])
  | reset => exact busyAndWake_of_idle (hreset rfl) (by simp [afterReset])
  | controlStart d hrun hstart =>
    exact ⟨⟨fun _ => rfl, fun _ => rfl⟩, fun _ => hs.phase_of_idle hclean (Bool.and_eq_true_iff.mp hstart).2⟩
  | start hidle => exact ⟨⟨fun _ => rfl, fun _ => rfl⟩, fun _ => hs.phase_of_idle hclean hidle⟩
  | acknowledge | enable | evaluate => exact ⟨by simpa [State.jobInFlight] using hbusy, by simpa using hwake⟩
  | powerOn => exact absurd rfl hpor
  | takeJob hphase hpending =>
    have hstatus : s.regs.status = 0x00000002 := hbusy.mp ((jobInFlight_iff s).mpr (.inl hpending))
    refine busyAndWake_of_working ?_ rfl hstatus
    cases hn : dimensionInvalid s.job.n <;> simp
  | readAFailed rest hphase | readA rest hphase | readBFailed rest hphase | readB rest hphase | compute hphase
  | writeFailed rest hphase | write rest hphase =>
    obtain ⟨hstatus, hnone⟩ := hs.of_phase hclean hphase nofun
    exact busyAndWake_of_working nofun hnone hstatus
  | done hphase | error hphase =>
    obtain ⟨-, hnone⟩ := hs.of_phase hclean hphase nofun
    exact busyAndWake_of_idle (by simp [State.jobInFlight, hnone, reportSuccess, reportFailure])
      (by simp [reportSuccess, reportFailure])

/-! ### The engine's working state (R43) -/

theorem Engine.ok_of_wait {e : Engine} (h : e.phase = .wait) : e.Ok := by constructor <;> simp [h]

theorem Engine.ok_of_fail {e : Engine} (h : e.phase = .fail) : e.Ok := by constructor <;> simp [h]

theorem elemsOfBytes_readBytes_length (k : Nat) (m : Memory) (a : Ptr) (n : Word) :
    (elemsOfBytes (readBytes k m a (dmaLen n))).length = n.toNat * n.toNat :=
  elemsOfBytes_length _ _ (by rw [readBytes_length, dmaLen, Nat.mul_comm 4]; rfl)

theorem dimensionValid_of_not_invalid {n : Word} (h : dimensionInvalid n = false) : DimensionValid n := by
  have := mt (dimensionInvalid_iff n).mpr (Bool.eq_false_iff.mp h)
  omega

theorem Effect.engine {i : Instr} {s u : State} (h : Effect s i u) (hs : s.eng.Ok) : u.eng.Ok := by
  obtain ⟨hdim, hA, hB, hC⟩ := hs
  cases h with
  | powerOn => exact Engine.ok_of_wait (powerOn_phase s)
  | done | error => exact Engine.ok_of_wait rfl
  | readAFailed | readBFailed | writeFailed => exact Engine.ok_of_fail rfl
  | takeJob hphase hwake =>
    cases hn : dimensionInvalid s.job.n with
    | true => exact Engine.ok_of_fail rfl
    | false => refine ⟨fun _ => dimensionValid_of_not_invalid hn, ?_, ?_, ?_⟩ <;> simp
  | readA rest hphase | readB rest hphase | compute hphase | write rest hphase =>
    simp only [hphase] at hdim hA hB hC
    refine ⟨fun _ => hdim (by decide), ?_, ?_, ?_⟩ <;>
      simp_all [afterReadA, afterReadB, afterWrite, elemsOfBytes_readBytes_length]
  | acknowledge | enable | evaluate => exact (irqEval_eng _).symm ▸ ⟨hdim, hA, hB, hC⟩
  | _ => exact ⟨hdim, hA, hB, hC⟩

/-! ### The whole invariant -/

theorem Effect.inv {i : Instr} {s u : State} (h : Effect s i u) (hs : s.Inv) : u.Inv where
  line := h.lineDerived hs.line
  status := h.regs ▸ statusLegal_registersAfter hs.status i
  intStatus := h.regs ▸ intStatusLegal_registersAfter hs.intStatus i
  memory := h.memory hs.memory
  busy := fun hu => (h.busyAndWake hs hu).1
  wake := fun hu => (h.busyAndWake hs hu).2
  engine := h.engine hs.engine

/-- Settles O59: an operation keeps each clause, a host's change of its memory keeps the canonical form, and the schedule
is read by none. -/
theorem stepKeepsTheInvariant : Obligations.StepKeepsTheInvariant := fun _ _ hs h =>
  step_preserves (P := State.Inv) (fun _ _ ⟨a, b, c, d, e, f, g⟩ => ⟨a, b, c, d, e, f, g⟩)
    (fun _ _ ⟨a, b, c, d, e, f, g⟩ => ⟨a, b, c, hostChange_wf d, e, f, g⟩) (fun _ _ _ hs h => (exec_effect h).inv hs) hs h

end Sys2Proof.Machine
end

section
/-!
PROOFS. One step (R70): which operation it runs, that it always goes on, and what it does where the engine is blocked (R206,
R285). And what an engine operation or an operation other than a DMA step does not depend on (R63, R74), the START while
BUSY (R164) and the two resets (R301).
-/

namespace Sys2Proof.Machine

open Sys2Proof

/-! ### The operation of a step (R70, R91) -/

theorem step_of_bus {s : State} {t : Transaction} {ts : List Turn} (h : s.schedule = .bus t :: ts) :
    step s = exec (decode t) (s.setSchedule ts) := by
  simp only [step, fetch, h]

theorem step_of_engine {s : State} {i : Instr} {ts : List Turn} (ho : engineOp s = some i)
    (h : s.schedule = .engine :: ts) : step s = exec i (s.setSchedule ts) := by
  simp only [step, fetch, engineAction, ho, h]

theorem step_of_empty {s : State} {i : Instr} (ho : engineOp s = some i) (h : s.schedule = []) : step s = exec i s := by
  simp only [step, fetch, engineAction, ho, h]

theorem step_of_engine_blocked {s : State} {ts : List Turn} (ho : engineOp s = none) (h : s.schedule = .engine :: ts) :
    step s = .next (s.setSchedule ts) := by
  simp only [step, fetch, engineAction, ho, h]

theorem step_of_empty_blocked {s : State} (ho : engineOp s = none) (h : s.schedule = []) : step s = .next s := by
  simp only [step, fetch, engineAction, ho, h]

/-- Settles O54: the head of the schedule says which operation runs, and the decoder's answer is well-formed. -/
theorem stepRunsTheNextOperation : Obligations.StepRunsTheNextOperation := fun _ t _ =>
  ⟨(decodeIn_selects Config.regMap t).1, step_of_bus, fun _ ho h => step_of_engine ho h, fun _ ho h => step_of_empty ho h,
    fun h => by simp only [step, fetch, h]; rfl⟩

/-- The guard by which the engine's operation is chosen is the operation's own (R91, R206). -/
theorem exec_of_engineOp {s : State} {i : Instr} (h : engineOp s = some i) : ∃ u, exec i s = .next u := by
  obtain ⟨rfl, hp, hw⟩ | ⟨rfl, hp, ha⟩ | ⟨rfl, hp, ha⟩ | ⟨rfl, hp⟩ | ⟨rfl, hp, ha⟩ | ⟨rfl, hp⟩ | ⟨rfl, hp⟩ := engineOp_cases h
  · exact ⟨_, execEngStart_next hp hw⟩
  · obtain ⟨hnone, -⟩ | ⟨_, _, -, -, he⟩ | ⟨_, -, he⟩ := execEngRdA_cases hp
    · exact absurd hnone ha
    · exact ⟨_, he⟩
    · exact ⟨_, he⟩
  · obtain ⟨hnone, -⟩ | ⟨_, _, -, -, he⟩ | ⟨_, -, he⟩ := execEngRdB_cases hp
    · exact absurd hnone ha
    · exact ⟨_, he⟩
    · exact ⟨_, he⟩
  · exact ⟨_, execEngCompute_next hp⟩
  · obtain ⟨hnone, -⟩ | ⟨_, -, he⟩ | ⟨_, -, he⟩ := execEngWrC_cases hp
    · exact absurd hnone ha
    · exact ⟨_, he⟩
    · exact ⟨_, he⟩
  · exact ⟨_, execEngDone_next hp⟩
  · exact ⟨_, execEngError_next hp⟩

/-- Settles O56: a bus operation and POR complete in every state, and the engine's where `engineOp` answers it. -/
theorem everyStepGoesOn : Obligations.EveryStepGoesOn := by
  intro s
  obtain ⟨-, ⟨-, he⟩ | ⟨i, ho, he⟩⟩ | ⟨t, ts, -, he⟩ | ⟨ts, -, ⟨-, he⟩ | ⟨i, ho, he⟩⟩ | ⟨cs, ts, -, he⟩ | ⟨ts, -, he⟩ :=
    step_cases s
  · exact ⟨_, he⟩
  · exact he ▸ exec_of_engineOp ho
  · exact he ▸ exec_of_isBus (decodeIn_isBus Config.regMap t) _
  · exact ⟨_, he⟩
  · exact he ▸ exec_of_engineOp (s := s.setSchedule ts) ho
  · exact ⟨_, he⟩
  · exact ⟨_, he⟩

/-! ### A blocked engine (R206, R285) -/

theorem engineOp_eq_none_of_waiting {s : State} (hphase : s.eng.phase = .wait) (hwake : s.wakePending = false) :
    engineOp s = none := by
  simp [engineOp, hphase, hwake]

theorem engineOp_eq_none_of_silent {s : State} (ha : s.answers = []) (hphase : s.eng.phase ∈ [Phase.rdA, .rdB, .wrC]) :
    engineOp s = none := by
  simp only [List.mem_cons, List.not_mem_nil, or_false] at hphase
  rcases hphase with h | h | h <;> simp [engineOp, h, ha]

/-- Settles O39: nothing is enabled, and a transaction is answered by O14. -/
theorem waitingEngineKeepsEverything : Obligations.WaitingEngineKeepsEverything := by
  intro s ts
  refine ⟨fun hphase hwake => ?_, fun t h => ?_⟩
  · have hblocked := engineOp_eq_none_of_waiting hphase hwake
    exact ⟨step_of_empty_blocked hblocked, step_of_engine_blocked hblocked⟩
  · obtain ⟨u, r, hu, hr, -⟩ := busOperationsRespond t (s.setSchedule ts)
    exact ⟨u, r, (step_of_bus h).trans hu, hr⟩

/-- A bus operation leaves BUSY alone, unless it runs the RESET action. -/
theorem status_of_isBus_busy {i : Instr} (h : isBus i = true) {r : RegFile} (hbusy : r.status = 0x00000002) :
    (registersAfter r i).status = 0x00000002 ∨ ((registersAfter r i).status = 0x00000001 ∧ runsReset i = true) := by
  cases i with
  | wrControl d =>
    by_cases hreset : (narrowValue d).getLsbD 1 = true
    · rw [registersAfter, if_pos hreset]
      exact .inr ⟨rfl, hreset⟩
    · rw [registersAfter, if_neg hreset]
      split_ifs
      · exact .inl rfl
      · exact .inl hbusy
  | engStart | engRdA | engRdB | engCompute | engWrC | engDone | engError | ctlReset | ctlStart | irqEval | por => cases h
  | _ => exact .inl hbusy

/-- Settles O38: the engine's own turn is blocked, and no other turn but a power-on reaches the engine. -/
theorem silentEndpointHoldsTheEngine : Obligations.SilentEndpointHoldsTheEngine := by
  intro s ha hphase
  have hblocked := engineOp_eq_none_of_silent ha hphase
  refine ⟨fun u hu hhead => ?_, step_of_empty_blocked hblocked, fun ts => step_of_engine_blocked hblocked⟩
  obtain ⟨-, ⟨-, he⟩ | ⟨i, ho, -⟩⟩ | ⟨t, ts, ht, he⟩ | ⟨ts, -, ⟨-, he⟩ | ⟨i, ho, -⟩⟩ | ⟨cs, ts, -, he⟩ | ⟨ts, ht, -⟩ :=
    step_cases s
  · cases hu.symm.trans he
    exact ⟨rfl, ha, .inl⟩
  · exact absurd (hblocked.symm.trans ho) nofun
  · have hbus := decodeIn_isBus Config.regMap t
    have heffect : Effect (s.setSchedule ts) (decode t) u := exec_effect (he.symm.trans hu)
    obtain ⟨hengine, hpor⟩ := isEngine_of_isBus hbus
    obtain ⟨heng, -, hanswers, -⟩ := heffect.frame hengine hpor
    refine ⟨heng, hanswers.trans ha, fun hbusy => ?_⟩
    rw [heffect.regs]
    exact (status_of_isBus_busy hbus hbusy).imp_right fun ⟨hidle, hreset⟩ => ⟨hidle, t, ts, ht, hreset⟩
  · cases hu.symm.trans he
    exact ⟨rfl, ha, .inl⟩
  · exact absurd (hblocked.symm.trans ho) nofun
  · cases hu.symm.trans he
    exact ⟨rfl, ha, .inl⟩
  · exact absurd (by rw [ht]; rfl) hhead

/-! ### START while BUSY (R164) and the two resets (R301) -/

theorem Effect.wake_of_isEngine {i : Instr} {s u : State} (h : Effect s i u) (hi : isEngine i = true)
    (hu : u.wakePending = true) : s.wakePending = true := by
  cases h with
  | takeJob hphase hwake => exact hwake
  | readAFailed | readA | readBFailed | readB | compute | writeFailed | write | error => exact hu
  | done => simpa [reportSuccess] using hu
  | quiet i | jobWrite i => cases i <;> exact hu
  | _ => cases hi

/-- Settles O19: the decision table's last row, and no effect of an engine operation sets the wake. -/
theorem startWhileBusyOnlyStoresControl : Obligations.StartWhileBusyOnlyStoresControl := by
  refine ⟨fun s d hreset hstart hbusy => ?_, fun i hi s u h => ⟨fun hu => ?_, engineOp_eq_none_of_waiting⟩⟩
  · rw [controlWriteDecisionTable s d]
    simp only [hreset, hstart, hbusy]
    rfl
  · refine (exec_effect h).wake_of_isEngine ?_ hu
    simp only [List.mem_cons, List.not_mem_nil, or_false] at hi
    rcases hi with rfl | rfl | rfl | rfl | rfl | rfl | rfl <;> rfl

/-- Settles O22: both leave the power-on registers and a low line; the phase, the wake and the mark that CTL.RESET leaves
are POR's exactly where no job is in flight. -/
theorem theTwoResetsAgreeWhenIdle : Obligations.TheTwoResetsAgreeWhenIdle := by
  intro s hclean
  refine ⟨_, _, resetRestoresTheRegisters s, rfl, ?_⟩
  simp only [SameSpecified, powerOn_regs, powerOn_irqLine, powerOn_phase, powerOn_wakePending, powerOn_marks, jobInFlight_eq]
  constructor
  · rintro ⟨-, -, hphase, hwake, -⟩
    simp_all [afterReset]
  · intro hidle
    obtain ⟨hwake, hphase⟩ := Bool.or_eq_false_iff.mp hidle
    obtain ⟨hwrite, hreset⟩ := hclean
    have hwait : s.eng.phase = .wait := by simpa using hphase
    refine ⟨rfl, rfl, hwait, hwake, congrArg₂ Marks.mk hwrite ?_⟩
    rw [hreset, hwake, hphase]
    rfl

/-! ### What an operation does not depend on (R63, R74) -/

/-- A guarded step commutes with a change of the state that its guard and its refusal do not see. -/
theorem guarded_commutes {p : Prop} [Decidable p] {f : State → State} {o o' : Host.Outcome State Fault Refusal} {r : Fault}
    (h : o' = mapNext f o) : (if p then o' else .fault r) = mapNext f (if p then o else .fault r) := by
  rw [h]
  split <;> rfl

/-- A request's operation commutes with a change of the state that both its effects commute with. -/
theorem byVerdict_commutes {f : State → State} {mnemonic : String} {failed succeeded failed' succeeded' : List Answer → State}
    (hf : ∀ rest, failed' rest = f (failed rest)) (hs : ∀ rest, succeeded' rest = f (succeeded rest)) (as : List Answer) :
    byVerdict mnemonic failed' succeeded' as = mapNext f (byVerdict mnemonic failed succeeded as) := by
  cases as with
  | nil => rfl
  | cons a rest => cases a with
    | success => exact congrArg Host.Outcome.next (hs rest)
    | fail => exact congrArg Host.Outcome.next (hf rest)

theorem exec_engStart (s : State) : exec .engStart s = if s.eng.phase = .wait ∧ s.wakePending = true then
    .next (((s.setWake false).setEngJob s.job).setPhase (if dimensionInvalid s.job.n then .fail else .rdA))
    else .fault (.notEnabled "ENG.START") := by
  rw [exec, execEngStart]
  cases dimensionInvalid s.job.n <;> rfl

/-- The report of a success commutes with a change that keeps what it reads: INT_STATUS, INT_ENABLE, the line, the record. -/
theorem reportSuccess_eq (s : State) : reportSuccess s = { toWait s with
    regs := registersAfter s.regs .engDone
    irqLine := irqValue (registersAfter s.regs .engDone)
    log := logEdge s.log s.irqLine (irqValue (registersAfter s.regs .engDone)) } := by
  rw [reportSuccess, irqEval_eq]
  rfl

/-- Settles O42: every guard, request and effect of the seven is written without DIM_N and the pointer registers. -/
theorem engineIgnoresTheJobRegisters : Obligations.EngineIgnoresTheJobRegisters := by
  intro i hi s n a b c f
  simp only [List.mem_cons, List.not_mem_nil, or_false] at hi
  rcases hi with rfl | rfl | rfl | rfl | rfl | rfl | rfl
  · rw [exec_engStart, exec_engStart]
    exact guarded_commutes rfl
  · rw [exec_engRdA, exec_engRdA]
    refine guarded_commutes ?_
    refine byVerdict_commutes (fun _ => ?_) (fun _ => ?_) s.answers <;> rfl
  · rw [exec_engRdB, exec_engRdB]
    refine guarded_commutes ?_
    refine byVerdict_commutes (fun _ => ?_) (fun _ => ?_) s.answers <;> rfl
  · exact guarded_commutes rfl
  · rw [exec_engWrC, exec_engWrC]
    refine guarded_commutes ?_
    refine byVerdict_commutes (fun _ => ?_) (fun _ => ?_) s.answers <;> rfl
  · refine guarded_commutes ?_
    rw [reportSuccess_eq, reportSuccess_eq]
    rfl
  · exact guarded_commutes rfl

theorem controlAction_setMem (v : Word) (s : State) (m : Memory) :
    controlAction v (s.setMem m) = (controlAction v s).setMem m := by
  rw [controlAction_eq, controlAction_eq, State.setMem_regs]
  cases v.getLsbD 1 with
  | true => rfl
  | false => cases v.getLsbD 0 && s.regs.status.getLsbD 0 <;> rfl

/-- R63: an operation other than the engine's three requests commutes with a change of external memory. -/
theorem exec_setMem {i : Instr} (hi : i ∉ [Instr.engRdA, .engRdB, .engWrC]) (s : State) (m : Memory) :
    exec i (s.setMem m) = mapNext (·.setMem m) (exec i s) := by
  by_cases hjob : writesJobRegister i = true
  · rw [exec_of_writesJobRegister hjob, exec_of_writesJobRegister hjob]
    rfl
  cases i with
  | wrControl d =>
    exact congrArg (fun t => Host.Outcome.next (State.respond t .ok []))
      (controlAction_setMem (wdata d) (s.setControl (wdata d)) m)
  | wrIntStatus d =>
    rw [exec_wrIntStatus, exec_wrIntStatus, irqEval_eq, irqEval_eq]
    rfl
  | wrIntEnable d =>
    rw [exec_wrIntEnable, exec_wrIntEnable, irqEval_eq, irqEval_eq]
    rfl
  | irqEval => rw [irqEvalDrivesTheLine, irqEvalDrivesTheLine]; rfl
  | ctlReset => rw [resetRestoresTheRegisters, resetRestoresTheRegisters]; rfl
  | ctlStart =>
    rw [exec, exec, execCtlStart, execCtlStart, ctlStart, ctlStart, State.setMem_regs]
    split_ifs <;> rfl
  | por =>
    rw [exec, exec, execPor, execPor, powerOn, powerOn, irqEval_of_irqValue irqValue_powerOn, irqEval_of_irqValue irqValue_powerOn]
    rfl
  | engStart =>
    rw [exec_engStart, exec_engStart]
    exact guarded_commutes rfl
  | engDone =>
    refine guarded_commutes ?_
    rw [reportSuccess_eq, reportSuccess_eq]
    rfl
  | engCompute | engError => exact guarded_commutes rfl
  | engRdA | engRdB | engWrC => exact absurd (by decide) hi
  | wrDimN | wrAPtr | wrAPtrLo | wrAPtrHi | wrBPtr | wrBPtrLo | wrBPtrHi | wrCPtr | wrCPtrLo | wrCPtrHi =>
    exact absurd rfl hjob
  | _ => rfl

theorem Effect.mem_of_read {i : Instr} {s u : State} (h : Effect s i u) (hi : i = .engRdA ∨ i = .engRdB) : u.mem = s.mem := by
  obtain rfl | rfl := hi <;> cases h <;> rfl

/-- Settles O43: ENG.WR_C's two effects are equal but for external memory. -/
theorem onlyDmaStepsReachExternalMemory : Obligations.OnlyDmaStepsReachExternalMemory := by
  refine ⟨fun i hi => exec_setMem hi, fun i hi s u h => (exec_effect h).mem_of_read (by simpa using hi), fun s m m' => ?_⟩
  rw [exec_engWrC, exec_engWrC]
  by_cases hphase : s.eng.phase = .wrC
  · rw [if_pos hphase, if_pos (show (s.setMem m).eng.phase = .wrC from hphase), State.setMem_answers]
    rcases s.answers with _ | ⟨_ | _, rest⟩ <;> rfl
  · rw [if_neg hphase, if_neg (show ¬(s.setMem m).eng.phase = .wrC from hphase)]

end Sys2Proof.Machine
end

section
/-!
PROOFS. Accesses in a row, through decode and exec: one pointer seen at both widths (R79), and an access made twice (R68).
-/

namespace Sys2Proof.Machine

open Sys2Proof

/-! ### The halves of a pointer as bytes (R62, R79, R95) -/

theorem leNat_append (lo hi : List Byte) : leNat (lo ++ hi) = leNat lo + 256 ^ lo.length * leNat hi := by
  induction lo with
  | nil => simp [leNat]
  | cons b lo ih =>
    rw [List.cons_append, leNat, leNat, ih, List.length_cons, Nat.pow_succ]
    ring

/-- Eight bytes as a value are the four high ones over the four low ones. -/
theorem le64_append {lo hi : List Byte} (hlo : lo.length = 4) (hhi : hi.length = 4) :
    le64 (lo ++ hi) = le32 hi ++ le32 lo := by
  have hl := leNat_lt lo
  have hh := leNat_lt hi
  rw [hlo] at hl
  rw [hhi] at hh
  apply BitVec.eq_of_toNat_eq
  rw [BitVec.toNat_append, le64, le32, le32, leNat_append, hlo]
  simp only [BitVec.toNat_ofNat]
  rw [Nat.mod_eq_of_lt (by omega), Nat.mod_eq_of_lt (by omega), Nat.mod_eq_of_lt (by omega),
    ← Nat.shiftLeft_add_eq_or_of_lt (by omega), Nat.shiftLeft_eq]
  omega

theorem loHalf_append (v w : Word) : loHalf (v ++ w) = w := by
  rw [loHalf_eq, BitVec.extractLsb'_append_eq_right]

theorem hiHalf_append (v w : Word) : hiHalf (v ++ w) = v := by
  rw [hiHalf_eq, BitVec.extractLsb'_append_eq_left]

theorem withLo_withLo (p : Ptr) (v : Word) : withLo (withLo p v) v = withLo p v := by
  rw [withLo, withLo, hiHalf_append]

theorem withHi_withHi (p : Ptr) (v : Word) : withHi (withHi p v) v = withHi p v := by
  rw [withHi, withHi, loHalf_append]

/-! ### Mixed widths (R79) -/

theorem regMap_acceptable : Config.regMap.Acceptable := by decide

theorem decode_write_whole {lo hi : List Byte} (hlo : lo.length = 4) (hhi : hi.length = 4) :
    decode (.write Config.regMap.aPtr (lo ++ hi)) = .wrAPtr (le32 hi ++ le32 lo) := by
  have hlen : (lo ++ hi).length = 8 := by rw [List.length_append, hlo, hhi]
  refine decodeOfEncodeIsTheOperation _ regMap_acceptable _ _ rfl ?_
  rw [encodeIn, ← le64_append hlo hhi, bytesLe_le64 hlen]

theorem decode_write_low {lo : List Byte} (hlo : lo.length = 4) :
    decode (.write Config.regMap.aPtr lo) = .wrAPtrLo (le32 lo) :=
  decodeOfEncodeIsTheOperation _ regMap_acceptable _ _ rfl (by rw [encodeIn, bytesLe_le32 hlo])

theorem decode_write_high {hi : List Byte} (hhi : hi.length = 4) :
    decode (.write (Config.regMap.aPtr + 4) hi) = .wrAPtrHi (le32 hi) :=
  decodeOfEncodeIsTheOperation _ regMap_acceptable _ _ rfl (by rw [encodeIn, bytesLe_le32 hhi])

theorem decode_reads : decode (.read Config.regMap.aPtr 4) = .rdAPtrLo ∧
    decode (.read (Config.regMap.aPtr + 4) 4) = .rdAPtrHi ∧ decode (.read Config.regMap.aPtr 8) = .rdAPtr := by decide

theorem readPtr_append {lo hi : List Byte} (hlo : lo.length = 4) (hhi : hi.length = 4) :
    readPtr (le32 hi ++ le32 lo) = lo ++ hi := by
  have hlen : (lo ++ hi).length = 8 := by rw [List.length_append, hlo, hhi]
  rw [← le64_append hlo hhi, readPtr, bytesLe_le64 hlen]

/-- Settles O16: the register holds the two halves as one value, whichever way they were written. -/
theorem mixedWidthViewOfAPointer : Obligations.MixedWidthViewOfAPointer := by
  intro s lo hi hlo hhi base
  obtain ⟨hreadLow, hreadHigh, hreadWhole⟩ := decode_reads
  have respond {d e : List Byte} (h : d = e) : some (Response.mk .ok d) = some ⟨.ok, e⟩ := by rw [h]
  refine ⟨⟨_, _, _, by rw [decode_write_whole hlo hhi]; rfl, by rw [hreadLow]; rfl, respond ?_, by rw [hreadHigh]; rfl,
    respond ?_⟩, ⟨_, _, _, by rw [decode_write_low hlo]; rfl, by rw [decode_write_high hhi]; rfl, by rw [hreadWhole]; rfl,
    respond ?_⟩, ⟨_, _, _, by rw [decode_write_high hhi]; rfl, by rw [decode_write_low hlo]; rfl, by rw [hreadWhole]; rfl,
    respond ?_⟩⟩
  · exact (congrArg readHalf (loHalf_append (le32 hi) (le32 lo))).trans (bytesLe_le32 hlo)
  · exact (congrArg readHalf (hiHalf_append (le32 hi) (le32 lo))).trans (bytesLe_le32 hhi)
  · have hboth : withHi (withLo s.regs.aPtr (le32 lo)) (le32 hi) = le32 hi ++ le32 lo := by
      rw [withHi, withLo, loHalf_append]
    exact (congrArg readPtr hboth).trans (readPtr_append hlo hhi)
  · have hboth : withLo (withHi s.regs.aPtr (le32 hi)) (le32 lo) = le32 hi ++ le32 lo := by
      rw [withLo, withHi, hiHalf_append]
    exact (congrArg readPtr hboth).trans (readPtr_append hlo hhi)

/-! ### An access made twice (R68) -/

/-- A read row answers from registers it does not write, and records the warning of an undefined address at most. -/
theorem exec_read_twice {i : Instr} (h : isRead i = true) (s : State) : ∃ u v, exec i s = .next u ∧
    (u.log = s.log ∨ ∃ a len, i = .rdUndef a len ∧ u.log = s.log ++ [.warnUndefined .read a]) ∧
    exec i u = .next v ∧ v.resp = u.resp := by
  cases i with
  | rdUndef a len => exact ⟨_, _, rfl, .inr ⟨a, len, rfl, rfl⟩, rfl, rfl⟩
  | rdControl | rdStatus | rdDimN | rdIntStatus | rdIntEnable | rdAPtr | rdAPtrLo | rdAPtrHi | rdBPtr | rdBPtrLo
  | rdBPtrHi | rdCPtr | rdCPtrLo | rdCPtrHi => exact ⟨_, _, rfl, .inl rfl, rfl, rfl⟩
  | _ => cases h

/-- The offset of a transaction that decodes to an undefined read. -/
theorem addr_of_decode_rdUndef {t : Transaction} {a : Ptr} {len : AccessLen} (h : decode t = .rdUndef a len) :
    t.addr = a := by
  obtain ⟨-, henc⟩ := decodeIn_selects Config.regMap t
  rw [show decodeIn Config.regMap t = .rdUndef a len from h] at henc
  cases henc
  rfl

theorem registersAfter_twice {i : Instr} (h : writesJobRegister i = true) (r : RegFile) :
    registersAfter (registersAfter r i) i = registersAfter r i := by
  cases i with
  | wrDimN | wrAPtr | wrBPtr | wrCPtr => rfl
  | wrAPtrLo v | wrBPtrLo v | wrCPtrLo v => simp only [registersAfter, ← hiHalf_eq, hiHalf_append]
  | wrAPtrHi v | wrBPtrHi v | wrCPtrHi v => simp only [registersAfter, ← loHalf_eq, loHalf_append]
  | _ => cases h

/-- A sticky mark recorded again under the same conditions. -/
theorem sticky_twice : ∀ mark wake working : Bool,
    ((mark || wake || working) || wake || working) = (mark || wake || working) := by decide

/-- The mark of a second job-register write is already recorded. -/
theorem sameDevice_afterJobWrite (s : State) (r : RegFile) :
    SameDevice (afterJobWrite s r) (afterJobWrite (afterJobWrite s r) r) :=
  ⟨rfl, rfl, rfl, rfl, rfl, congrArg (fun b => { s.marks with writeDuringBusy := b }) (sticky_twice ..), rfl, rfl, rfl, rfl⟩

/-- The mark of a second RESET is already recorded. -/
theorem sameDevice_afterReset (s : State) : SameDevice (afterReset s) (afterReset (afterReset s)) :=
  ⟨rfl, rfl, rfl, rfl, rfl, congrArg (fun b => { s.marks with resetInFlight := b }) (sticky_twice ..), rfl, rfl, rfl, rfl⟩

/-- A write row but a START, made twice, leaves the device as once. -/
theorem exec_write_twice {i : Instr} (hbus : isBus i = true) (hread : isRead i = false)
    (hstart : ∀ d, i = .wrControl d → (narrowValue d).getLsbD 0 = false) (s : State) :
    ∃ u v, exec i s = .next u ∧ exec i u = .next v ∧ SameDevice u v := by
  by_cases hjob : writesJobRegister i = true
  · refine ⟨_, _, exec_of_writesJobRegister hjob s, exec_of_writesJobRegister hjob _, ?_⟩
    have hregs : registersAfter (afterJobWrite s (registersAfter s.regs i)).regs i = registersAfter s.regs i :=
      registersAfter_twice hjob s.regs
    rw [hregs]
    exact sameDevice_afterJobWrite s _
  cases i with
  | accBadlen | wrStatus | wrUndef => exact ⟨_, _, rfl, rfl, sameDevice_log_resp _ _ _⟩
  | wrControl d =>
    refine ⟨_, _, controlWriteDecisionTable s d, controlWriteDecisionTable _ d, ?_⟩
    rw [hstart d rfl]
    cases (narrowValue d).getLsbD 1 with
    | true => exact sameDevice_afterReset s
    | false => exact ⟨rfl, rfl, rfl, rfl, rfl, rfl, rfl, rfl, rfl, rfl⟩
  | wrIntStatus d =>
    refine ⟨_, _, intStatusWriteClears s d, intStatusWriteClears _ d, ?_⟩
    have hcleared : s.regs.intStatus &&& ~~~(narrowValue d) &&& ~~~(narrowValue d) = s.regs.intStatus &&& ~~~(narrowValue d) := by
      rw [BitVec.and_assoc, BitVec.and_self]
    simp only [hcleared]
    exact ⟨rfl, rfl, rfl, rfl, rfl, rfl, rfl, rfl, rfl, rfl⟩
  | wrIntEnable d =>
    exact ⟨_, _, intEnableWriteStores s d, intEnableWriteStores _ d, rfl, rfl, rfl, rfl, rfl, rfl, rfl, rfl, rfl, rfl⟩
  | engStart | engRdA | engRdB | engCompute | engWrC | engDone | engError | ctlReset | ctlStart | irqEval | por => cases hbus
  | wrDimN | wrAPtr | wrAPtrLo | wrAPtrHi | wrBPtr | wrBPtrLo | wrBPtrHi | wrCPtr | wrCPtrLo | wrCPtrHi => exact absurd rfl hjob
  | _ => cases hread

/-- The transaction of a read row is a read (R96). -/
theorem dir_of_isRead {m : RegMap} {i : Instr} {t : Transaction} (h : isRead i = true) (henc : encodeIn m i = some t) :
    t.dir = .read := by
  cases i with
  | rdControl | rdStatus | rdDimN | rdIntStatus | rdIntEnable | rdUndef | rdAPtr | rdAPtrLo | rdAPtrHi | rdBPtr
  | rdBPtrLo | rdBPtrHi | rdCPtr | rdCPtrLo | rdCPtrHi =>
    cases henc
    rfl
  | _ => cases h

theorem decode_write_isRead {t : Transaction} (h : t.dir = .write) : isRead (decode t) = false := by
  by_contra hread
  obtain ⟨-, henc⟩ := decodeIn_selects Config.regMap t
  exact absurd (h.symm.trans (dir_of_isRead (Bool.not_eq_false _ ▸ hread) henc)) nofun

/-- Settles O10: reads and writes by their rows; an accepted START sets BUSY and the wake. -/
theorem registerAccessesAreIdempotent : Obligations.RegisterAccessesAreIdempotent := by
  refine ⟨fun t s hread => ?_, fun t s hwrite hstart => ?_, fun d s hreset hstart hidle => ?_⟩
  · obtain hrow | hbad := decodeIn_read_cases Config.regMap hread
    · obtain ⟨u, v, hu, hlog, hv, hresp⟩ := exec_read_twice hrow s
      refine ⟨u, v, hu, hlog.imp_right ?_, hv, hresp⟩
      rintro ⟨a, len, hdec, hwarn⟩
      rw [addr_of_decode_rdUndef hdec]
      exact ⟨len, hdec, hwarn⟩
    · rw [decode, hbad]
      exact ⟨_, _, exec_accBadlen t s, .inl rfl, exec_accBadlen t _, rfl⟩
  · exact exec_write_twice (decodeIn_isBus Config.regMap t) (decode_write_isRead hwrite) hstart s
  · refine ⟨_, controlWriteDecisionTable s d, ?_⟩
    simp only [hreset, hstart, hidle]
    exact ⟨rfl, rfl⟩

end Sys2Proof.Machine
end

section
/-!
PROOFS. The contents of the buffers and of external memory (R62, R203, R209, R222 to R226) and the host's own changes of its
memory (R63): what a request transfers, element by element, and the product as the accumulation of R224.
-/

namespace Sys2Proof.Machine

open Sys2Proof

/-! ### Elements and bytes (R62, R209) -/

/-- Four bytes as an element, least significant first. -/
theorem le32_four (b0 b1 b2 b3 : Byte) : le32 [b0, b1, b2, b3] = b3 ++ b2 ++ b1 ++ b0 := by
  have h0 := b0.isLt
  have h1 := b1.isLt
  have h2 := b2.isLt
  have h3 := b3.isLt
  apply BitVec.eq_of_toNat_eq
  simp only [le32, leNat, BitVec.toNat_ofNat, BitVec.toNat_append]
  rw [← Nat.shiftLeft_add_eq_or_of_lt h2, ← Nat.shiftLeft_add_eq_or_of_lt h1, ← Nat.shiftLeft_add_eq_or_of_lt h0]
  simp only [Nat.shiftLeft_eq]
  omega

theorem append_fourBytes (v : Word) :
    v.extractLsb' 24 8 ++ v.extractLsb' 16 8 ++ v.extractLsb' 8 8 ++ v.extractLsb' 0 8 = v := by
  rw [← le32_four]
  exact (congrArg le32 (bytesLe_four v).symm).trans (le32_bytesLe v)

theorem elemsOfBytes_map_range (g : Nat → Byte) (k : Nat) : elemsOfBytes ((List.range (4 * k)).map g) =
    (List.range k).map fun e => g (4 * e + 3) ++ g (4 * e + 2) ++ g (4 * e + 1) ++ g (4 * e) := by
  induction k generalizing g with
  | zero => rfl
  | succ k ih =>
    have hbytes : (List.range (4 * (k + 1))).map g =
        g 0 :: g 1 :: g 2 :: g 3 :: (List.range (4 * k)).map fun i => g (4 + i) := by
      rw [Nat.mul_succ, Nat.add_comm, List.range_add, List.map_append, List.map_map]
      rfl
    rw [hbytes, elemsOfBytes, le32_four, ih, List.range_succ_eq_map, List.map_cons, List.map_map]
    congr 1
    refine List.map_congr_left fun e _ => ?_
    simp only [Function.comp, Nat.succ_eq_add_one, Nat.mul_add, Nat.mul_one, Nat.add_comm, Nat.add_left_comm]

/-- R209, R222: a read that stays inside the address space transfers the matrix at its address. -/
theorem elemsOfBytes_readBytes {k : Nat} {m : Memory} {a : Ptr} {n : Word} (h : a.toNat + dmaLen n ≤ 2 ^ 64) :
    elemsOfBytes (readBytes k m a (dmaLen n)) = matrixInMem m a.toNat n.toNat := by
  have hlen : dmaLen n = 4 * (n.toNat * n.toNat) := Nat.mul_comm _ _
  have hread : readBytes k m a (dmaLen n) = (List.range (4 * (n.toNat * n.toNat))).map fun i => readByte m (a.toNat + i) := by
    rw [readBytes, hlen]
    refine List.map_congr_left fun i hi => readAt_of_lt ?_
    have := List.mem_range.mp hi
    omega
  rw [hread, elemsOfBytes_map_range]
  rfl

/-- Settles O31: the two answers of the request, and the elements the bytes are. -/
theorem operandAReadFillsTheBuffer : Obligations.OperandAReadFillsTheBuffer := by
  intro s rest n hphase
  refine ⟨fun ha => ⟨_, ?_, elemsOfBytes_readBytes (k := s.free)⟩,
    fun ha => ⟨_, afterReadAFailed s rest, reportFailure (afterReadAFailed s rest), ?_, rfl, execEngError_next rfl, rfl, rfl, rfl⟩⟩ <;>
    · rw [exec_engRdA, if_pos hphase, ha]
      rfl

/-- Settles O32: as O31. -/
theorem operandBReadFillsTheBuffer : Obligations.OperandBReadFillsTheBuffer := by
  intro s rest n hphase
  refine ⟨fun ha => ⟨_, ?_, elemsOfBytes_readBytes (k := s.free)⟩,
    fun ha => ⟨_, afterReadBFailed s rest, reportFailure (afterReadBFailed s rest), ?_, rfl, execEngError_next rfl, rfl, rfl, rfl⟩⟩ <;>
    · rw [exec_engRdB, if_pos hphase, ha]
      rfl

/-! ### The result in external memory (R203, R226) -/

/-- Byte `t` of element `e` in a buffer's bytes. -/
theorem bytesOfElems_getD (es : List Word) {e t : Nat} (he : e < es.length) (ht : t < 4) :
    (bytesOfElems es).getD (4 * e + t) 0 = (fourBytes (es.getD e 0)).getD t 0 := by
  induction es generalizing e with
  | nil => exact absurd he (Nat.not_lt_zero e)
  | cons v es ih =>
    have hbytes : bytesOfElems (v :: es) = fourBytes v ++ bytesOfElems es := by
      rw [bytesOfElems, List.flatMap_cons, bytesLe_four]
      rfl
    have hlen : (fourBytes v).length = 4 := rfl
    rw [hbytes]
    cases e with
    | zero =>
      rw [List.getD_append _ _ _ _ (by omega), Nat.mul_zero, Nat.zero_add]
      rfl
    | succ e =>
      rw [List.getD_append_right _ _ _ _ (by omega), hlen, show 4 * (e + 1) + t - 4 = 4 * e + t by omega,
        ih (Nat.lt_of_succ_lt_succ he)]
      rfl

/-- A write that stays inside the address space: the elements at its address, and every other byte as before. -/
theorem writeBytes_bytesOfElems {k : Nat} {m : Memory} {c : Ptr} {es : List Word} (hm : Memory.wf m = true)
    (hfit : c.toNat + es.length * 4 ≤ 2 ^ 64) :
    (∀ e, e < es.length → elemInMem (writeBytes k m c (bytesOfElems es)) c.toNat e = es.getD e 0) ∧
    (∀ a, ¬(c.toNat ≤ a ∧ a < c.toNat + es.length * 4) →
      readByte (writeBytes k m c (bytesOfElems es)) a = readByte m a) := by
  have hread (a : Nat) := readByte_writeFrom (k := k) (m := m) (addr := c) (i := 0) (bs := bytesOfElems es) hm
    (by rw [bytesOfElems_length]; exact hfit) a
  simp only [Nat.add_zero, bytesOfElems_length] at hread
  refine ⟨fun e he => ?_, fun a ha => (hread a).trans (if_neg ha)⟩
  have hbyte (t : Nat) (ht : t < 4) : readByte (writeBytes k m c (bytesOfElems es)) (c.toNat + 4 * e + t) =
      (fourBytes (es.getD e 0)).getD t 0 := by
    rw [writeBytes, hread, if_pos (by omega), show c.toNat + 4 * e + t - c.toNat = 4 * e + t by omega]
    exact bytesOfElems_getD es he ht
  have h0 := hbyte 0 (by omega)
  have h1 := hbyte 1 (by omega)
  have h2 := hbyte 2 (by omega)
  have h3 := hbyte 3 (by omega)
  rw [elemInMem, h3, h2, h1, show readByte _ (c.toNat + 4 * e) = _ from h0]
  exact append_fourBytes _

/-- Settles O34: the two answers of the request, and the bytes a success stores. -/
theorem resultWriteStoresTheBuffer : Obligations.ResultWriteStoresTheBuffer := by
  intro s rest n c hphase hlen
  refine ⟨fun ha => ⟨(afterWrite s rest).mem, ?_, fun hm hfit => ?_⟩,
    fun ha => ⟨afterWriteFailed s rest, reportFailure (afterWriteFailed s rest), ?_, ?_, execEngError_next rfl, rfl, rfl, rfl⟩⟩
  · rw [exec_engWrC, if_pos hphase, ha, byVerdict, afterWrite, hlen]
  · rw [← hlen] at hfit ⊢
    exact writeBytes_bytesOfElems hm hfit
  · rw [exec_engWrC, if_pos hphase, ha, byVerdict]
  · rw [afterWriteFailed, hlen]

/-! ### The product (R224) -/

/-- An element of a matrix listed row by row. -/
theorem getElem?_rows {α : Type} (f : Nat → Nat → α) (m : Nat) {n i j : Nat} (hi : i < n) (hj : j < m) :
    ((List.range n).flatMap fun i => (List.range m).map (f i))[i * m + j]? = some (f i j) := by
  have hlen (n : Nat) : ((List.range n).flatMap fun i => (List.range m).map (f i)).length = n * m := by
    simp [List.length_flatMap]
  induction n with
  | zero => exact absurd hi (Nat.not_lt_zero i)
  | succ n ih =>
    rw [List.range_succ, List.flatMap_append, List.flatMap_singleton]
    obtain hlt | rfl := Nat.lt_succ_iff_lt_or_eq.mp hi
    · have : (i + 1) * m ≤ n * m := Nat.mul_le_mul_right m hlt
      rw [Nat.succ_mul] at this
      rw [List.getElem?_append_left (by rw [hlen]; omega), ih hlt]
    · rw [List.getElem?_append_right (by rw [hlen]; omega), hlen, Nat.add_sub_cancel_left, List.getElem?_map,
        List.getElem?_range hj]
      rfl

theorem elemAt_of_lt {buf : List Word} {e : Nat} (h : e < buf.length) : elemAt buf e = buf.getD e 0 := by
  rw [elemAt, List.getD_eq_getElem _ _ h, List.getD_eq_getElem _ _ h]

/-- The inner loop over the first `r` terms is the accumulator after `r` rounds. -/
theorem foldl_range_eq_accumulate (term : Nat → Word × Word) (r : Nat) :
    (List.range r).foldl (fun acc k => f32Add acc (f32Mul (term k).1 (term k).2)) 0 = accumulate term r := by
  induction r with
  | zero => rfl
  | succ r ih => rw [List.range_succ, List.foldl_append, ih]; rfl

theorem index_lt {n i j : Nat} (hi : i < n) (hj : j < n) : i * n + j < n * n := by
  have : (i + 1) * n ≤ n * n := Nat.mul_le_mul_right n hi
  rw [Nat.succ_mul] at this
  omega

theorem dotProduct_eq_accumulate {n : Nat} {a b : List Word} (ha : a.length = n * n) (hb : b.length = n * n) {i j : Nat}
    (hi : i < n) (hj : j < n) :
    dotProduct n a b i j = accumulate (fun k => (a.getD (i * n + k) 0, b.getD (k * n + j) 0)) n := by
  rw [← foldl_range_eq_accumulate, dotProduct]
  refine List.foldl_ext _ _ _ fun acc k hk => ?_
  have hk := List.mem_range.mp hk
  rw [elemAt_of_lt (ha ▸ index_lt hi hk), elemAt_of_lt (hb ▸ index_lt hk hj)]

/-- Settles O33: the product is listed by rows, and each element is the accumulation. -/
theorem computeIsTheTripleLoop : Obligations.ComputeIsTheTripleLoop := by
  intro s n hphase ha hb
  refine ⟨matMul n s.eng.bufA s.eng.bufB, execEngCompute_next hphase, matMul_length n _ _, fun i j hi hj => ?_⟩
  rw [matMul, getElem?_rows _ n hi hj, dotProduct_eq_accumulate ha hb hi hj]

/-! ### The host's own changes (R63) -/

theorem hostChange_append (m : Memory) (cs ds : List (Ptr × Byte)) :
    hostChange m (cs ++ ds) = hostChange (hostChange m cs) ds := by
  induction cs generalizing m with
  | nil => rfl
  | cons c cs ih => exact ih _

/-- Settles O55: the frame of a host's change, and the last byte given for an address. -/
theorem hostMemoryChangeIsOneStep : Obligations.HostMemoryChangeIsOneStep := by
  intro s cs ts hm hs
  refine ⟨hostChange s.mem cs, ?_, fun a ha => readByte_hostChange_of_not_mem hm ha, ?_⟩
  · simp only [step, fetch, hs]
    rfl
  · rintro pre p b post rfl hpost
    have hpre : Memory.wf (hostChange s.mem pre) = true := hostChange_wf hm
    rw [hostChange_append, hostChange,
      readByte_hostChange_of_not_mem (storeByte_wf hpre p.isLt) fun c hc heq => hpost c hc (BitVec.eq_of_toNat_eq heq),
      readByte_storeByte hpre, if_pos rfl]

end Sys2Proof.Machine
end

section
/-!
PROOFS. Whole jobs (R229, R230, R233, R265): the engine left to itself, step after step, and the four operations of a job
with anything between them that leaves the engine alone.
-/

namespace Sys2Proof.Machine

open Sys2Proof

/-! ### One step of an engine left to itself (R220 to R228) -/

/-- The engine operation that takes the captured job, its dimension being legal (R221). -/
def afterTakeJob (s : State) : State := ((s.setWake false).setEngJob s.job).setPhase .rdA

/-- ENG.COMPUTE (R224). -/
def afterCompute (s : State) : State := (s.setBufC (matMul s.eng.job.n.toNat s.eng.bufA s.eng.bufB)).setPhase .wrC

theorem dimensionInvalid_of_valid {n : Word} (h : DimensionValid n) : dimensionInvalid n = false := by
  have := mt (dimensionInvalid_iff n).mp (by omega)
  simpa using this

section
variable {s : State} {rest : List Answer} (k : Nat) (hs : s.schedule = [])
include hs

theorem runSteps_takeJob (hphase : s.eng.phase = .wait) (hwake : s.wakePending = true) (hn : DimensionValid s.job.n) :
    runSteps (k + 1) s = runSteps k (afterTakeJob s) := by
  have hexec := execEngStart_next hphase hwake
  rw [dimensionInvalid_of_valid hn] at hexec
  exact runSteps_engine k hs (i := .engStart) (by simp [engineOp, hphase, hwake]) hexec

theorem runSteps_readA (hphase : s.eng.phase = .rdA) (ha : s.answers = .success :: rest) :
    runSteps (k + 1) s = runSteps k (afterReadA s rest) :=
  runSteps_engine k hs (i := .engRdA) (by simp [engineOp, hphase, ha]) (by rw [exec_engRdA, if_pos hphase, ha, byVerdict])

theorem runSteps_readAFailed (hphase : s.eng.phase = .rdA) (ha : s.answers = .fail :: rest) :
    runSteps (k + 1) s = runSteps k (afterReadAFailed s rest) :=
  runSteps_engine k hs (i := .engRdA) (by simp [engineOp, hphase, ha]) (by rw [exec_engRdA, if_pos hphase, ha, byVerdict])

theorem runSteps_readB (hphase : s.eng.phase = .rdB) (ha : s.answers = .success :: rest) :
    runSteps (k + 1) s = runSteps k (afterReadB s rest) :=
  runSteps_engine k hs (i := .engRdB) (by simp [engineOp, hphase, ha]) (by rw [exec_engRdB, if_pos hphase, ha, byVerdict])

theorem runSteps_readBFailed (hphase : s.eng.phase = .rdB) (ha : s.answers = .fail :: rest) :
    runSteps (k + 1) s = runSteps k (afterReadBFailed s rest) :=
  runSteps_engine k hs (i := .engRdB) (by simp [engineOp, hphase, ha]) (by rw [exec_engRdB, if_pos hphase, ha, byVerdict])

theorem runSteps_compute (hphase : s.eng.phase = .compute) : runSteps (k + 1) s = runSteps k (afterCompute s) :=
  runSteps_engine k hs (i := .engCompute) (by simp [engineOp, hphase]) (execEngCompute_next hphase)

theorem runSteps_write (hphase : s.eng.phase = .wrC) (ha : s.answers = .success :: rest) :
    runSteps (k + 1) s = runSteps k (afterWrite s rest) :=
  runSteps_engine k hs (i := .engWrC) (by simp [engineOp, hphase, ha]) (by rw [exec_engWrC, if_pos hphase, ha, byVerdict])

theorem runSteps_writeFailed (hphase : s.eng.phase = .wrC) (ha : s.answers = .fail :: rest) :
    runSteps (k + 1) s = runSteps k (afterWriteFailed s rest) :=
  runSteps_engine k hs (i := .engWrC) (by simp [engineOp, hphase, ha]) (by rw [exec_engWrC, if_pos hphase, ha, byVerdict])

theorem runSteps_done (hphase : s.eng.phase = .fin) : runSteps (k + 1) s = runSteps k (reportSuccess s) :=
  runSteps_engine k hs (i := .engDone) (by simp [engineOp, hphase]) (execEngDone_next hphase)

theorem runSteps_error (hphase : s.eng.phase = .fail) : runSteps (k + 1) s = runSteps k (reportFailure s) :=
  runSteps_engine k hs (i := .engError) (by simp [engineOp, hphase]) (execEngError_next hphase)

end

/-! ### The end of a job (R230) -/

/-- The engine, left to itself, is in P_WAIT after at most `n` steps. -/
def WaitsWithin (n : Nat) (s : State) : Prop := ∃ k u, k ≤ n ∧ runSteps k s = .next u ∧ u.eng.phase = .wait

theorem WaitsWithin.of_step {n : Nat} {s u : State} (hrun : ∀ k, runSteps (k + 1) s = runSteps k u)
    (hu : WaitsWithin n u) : WaitsWithin (n + 1) s := by
  obtain ⟨k, v, hk, hv, hwait⟩ := hu
  exact ⟨k + 1, v, Nat.succ_le_succ hk, (hrun k).trans hv, hwait⟩

theorem WaitsWithin.mono {n n' : Nat} {s : State} (hs : WaitsWithin n s) (h : n ≤ n') : WaitsWithin n' s := by
  obtain ⟨k, u, hk, hrest⟩ := hs
  exact ⟨k, u, Nat.le_trans hk h, hrest⟩

theorem waitsWithin_of_wait {s : State} (h : s.eng.phase = .wait) : WaitsWithin 0 s := ⟨0, s, Nat.le_refl 0, rfl, h⟩

theorem waitsWithin_of_fail {s : State} (hs : s.schedule = []) (h : s.eng.phase = .fail) : WaitsWithin 1 s :=
  .of_step (fun k => runSteps_error k hs h) (waitsWithin_of_wait rfl)

theorem waitsWithin_of_fin {s : State} (hs : s.schedule = []) (h : s.eng.phase = .fin) : WaitsWithin 1 s :=
  .of_step (fun k => runSteps_done k hs h) (waitsWithin_of_wait rfl)

theorem waitsWithin_of_wrC {s : State} (hs : s.schedule = []) (h : s.eng.phase = .wrC) (ha : 1 ≤ s.answers.length) :
    WaitsWithin 2 s := by
  match hans : s.answers, ha with
  | .success :: rest, _ => exact .of_step (fun k => runSteps_write k hs h hans) (waitsWithin_of_fin hs rfl)
  | .fail :: rest, _ => exact .of_step (fun k => runSteps_writeFailed k hs h hans) (waitsWithin_of_fail hs rfl)

theorem waitsWithin_of_compute {s : State} (hs : s.schedule = []) (h : s.eng.phase = .compute)
    (ha : 1 ≤ s.answers.length) : WaitsWithin 3 s :=
  .of_step (fun k => runSteps_compute k hs h) (waitsWithin_of_wrC hs rfl ha)

theorem waitsWithin_of_rdB {s : State} (hs : s.schedule = []) (h : s.eng.phase = .rdB) (ha : 2 ≤ s.answers.length) :
    WaitsWithin 4 s := by
  match hans : s.answers, ha with
  | .success :: rest, ha =>
    exact .of_step (fun k => runSteps_readB k hs h hans) (waitsWithin_of_compute hs rfl (Nat.le_of_succ_le_succ ha))
  | .fail :: rest, _ =>
    have hend : WaitsWithin 1 (afterReadBFailed s rest) := waitsWithin_of_fail hs rfl
    exact .of_step (fun k => runSteps_readBFailed k hs h hans) (hend.mono (n' := 3) (by decide))

theorem waitsWithin_of_rdA {s : State} (hs : s.schedule = []) (h : s.eng.phase = .rdA) (ha : 3 ≤ s.answers.length) :
    WaitsWithin 5 s := by
  match hans : s.answers, ha with
  | .success :: rest, ha =>
    exact .of_step (fun k => runSteps_readA k hs h hans) (waitsWithin_of_rdB hs rfl (Nat.le_of_succ_le_succ ha))
  | .fail :: rest, _ =>
    have hend : WaitsWithin 1 (afterReadAFailed s rest) := waitsWithin_of_fail hs rfl
    exact .of_step (fun k => runSteps_readAFailed k hs h hans) (hend.mono (n' := 4) (by decide))

/-- Settles O45: phase by phase, from the last to the first. -/
theorem jobEndsWithinFiveSteps : Obligations.JobEndsWithinFiveSteps := by
  intro s hs hwait ha
  have ha1 : 1 ≤ s.answers.length := Nat.le_trans (by decide) ha
  have ha2 : 2 ≤ s.answers.length := Nat.le_trans (by decide) ha
  cases hphase : s.eng.phase with
  | wait => exact absurd hphase hwait
  | rdA => exact waitsWithin_of_rdA hs hphase ha
  | rdB => exact (waitsWithin_of_rdB hs hphase ha2).mono (by decide)
  | compute => exact (waitsWithin_of_compute hs hphase ha1).mono (by decide)
  | wrC => exact (waitsWithin_of_wrC hs hphase ha1).mono (by decide)
  | fin => exact (waitsWithin_of_fin hs hphase).mono (by decide)
  | fail => exact (waitsWithin_of_fail hs hphase).mono (by decide)

/-! ### A job from its acceptance to its report (R229, R265) -/

/-- The state in which the engine reports a job whose three requests succeeded. -/
def productWritten (s : State) (rest : List Answer) : State :=
  afterWrite (afterCompute (afterReadB (afterReadA (afterTakeJob s) (.success :: .success :: rest)) (.success :: rest))) rest

/-- Settles O46: the six operations, the product being computed before the write reaches external memory. -/
theorem successfulJobEndsDone : Obligations.SuccessfulJobEndsDone := by
  intro s rest j len hs hphase hwake hn ha
  refine ⟨reportSuccess (productWritten s rest), ?_, rfl, by simp [reportSuccess]; rfl, by simp [reportSuccess]; rfl, ?_, ?_⟩
  · exact .trans (runSteps_takeJob 5 hs hphase hwake hn) <| .trans (runSteps_readA 4 hs rfl ha) <|
      .trans (runSteps_readB 3 hs rfl rfl) <| .trans (runSteps_compute 2 hs rfl) <|
      .trans (runSteps_write 1 hs rfl rfl) (runSteps_done 0 hs rfl)
  · rw [reportSuccess_eq]
    rfl
  · rw [reportSuccess_eq]
    rfl

/-- Settles O47: the operations up to the failing request, and the report, which writes STATUS only. -/
theorem failedJobChangesOnlyStatus : Obligations.FailedJobChangesOnlyStatus := by
  intro s rest j len ends hs hphase hwake hn
  refine ⟨fun ha => ?_, fun ha => ?_, fun ha => ?_⟩
  · refine ⟨reportFailure (afterReadAFailed (afterTakeJob s) rest), ?_, rfl, rfl, rfl, rfl, rfl, rfl, rfl⟩
    exact .trans (runSteps_takeJob 2 hs hphase hwake hn) <| .trans (runSteps_readAFailed 1 hs rfl ha) (runSteps_error 0 hs rfl)
  · refine ⟨reportFailure (afterReadBFailed (afterReadA (afterTakeJob s) (.fail :: rest)) rest), ?_, rfl, rfl, rfl, rfl, rfl,
      rfl, ?_⟩
    · exact .trans (runSteps_takeJob 3 hs hphase hwake hn) <| .trans (runSteps_readA 2 hs rfl ha) <|
        .trans (runSteps_readBFailed 1 hs rfl rfl) (runSteps_error 0 hs rfl)
    · exact List.append_assoc ..
  · refine ⟨reportFailure (afterWriteFailed (afterCompute (afterReadB (afterReadA (afterTakeJob s) (.success :: .fail :: rest))
      (.fail :: rest))) rest), ?_, rfl, rfl, rfl, rfl, rfl, rfl, ?_⟩
    · exact .trans (runSteps_takeJob 5 hs hphase hwake hn) <| .trans (runSteps_readA 4 hs rfl ha) <|
        .trans (runSteps_readB 3 hs rfl rfl) <| .trans (runSteps_compute 2 hs rfl) <|
        .trans (runSteps_writeFailed 1 hs rfl rfl) (runSteps_error 0 hs rfl)
    · change ((s.log ++ [_]) ++ [_]) ++ [Event.dma .write j.c ((matMul j.n.toNat _ _).length * 4) .fail] = _
      rw [matMul_length, List.append_assoc, List.append_assoc]
      rfl

/-! ### A job with the host at work (R233) -/

theorem readA_engine {s u : State} (h : exec .engRdA s = .next u) (hu : u.eng.phase ≠ .fail) :
    u.eng = { s.eng with
      bufA := elemsOfBytes (readBytes s.free s.mem s.eng.job.a (dmaLen s.eng.job.n)), phase := .rdB } := by
  obtain ⟨-, ⟨_, _, -, -, rfl⟩ | ⟨_, -, rfl⟩⟩ := execEngRdA_inv h
  · exact absurd rfl hu
  · rfl

theorem readB_engine {s u : State} (h : exec .engRdB s = .next u) (hu : u.eng.phase ≠ .fail) :
    u.eng = { s.eng with
      bufB := elemsOfBytes (readBytes s.free s.mem s.eng.job.b (dmaLen s.eng.job.n)), phase := .compute } := by
  obtain ⟨-, ⟨_, _, -, -, rfl⟩ | ⟨_, -, rfl⟩⟩ := execEngRdB_inv h
  · exact absurd rfl hu
  · rfl

theorem write_memory {s u : State} (h : exec .engWrC s = .next u) (hu : u.eng.phase = .fin) :
    u.mem = writeBytes s.free s.mem s.eng.job.c (bytesOfElems s.eng.bufC) := by
  obtain ⟨-, ⟨_, -, rfl⟩ | ⟨_, -, rfl⟩⟩ := execEngWrC_inv h
  · cases hu
  · rfl

/-- Settles O44: each operation's guard says that the one before it succeeded, and the engine carries the job and the
buffers between them. -/
theorem jobWritesTheReferenceProduct : Obligations.JobWritesTheReferenceProduct := by
  intro s0 s1 s2 s3 s4 s5 s6 s7 hA h12 hB h34 hC h56 hW hfin j len
  obtain ⟨hphase2, -⟩ := execEngRdB_inv hB
  obtain ⟨hphase4, rfl⟩ := execEngCompute_inv hC
  have h1 := readA_engine hA (by rw [← h12, hphase2]; nofun)
  have h3 := readB_engine hB (by rw [← h34, hphase4]; nofun)
  rw [write_memory hW hfin, h56, State.setPhase_eng, State.setBufC_eng, h34, h3, h12, h1]
  rfl

end Sys2Proof.Machine
end

section
/-!
PROOFS. The arithmetic of ENG.COMPUTE (R225; general knowledge, log 14). The finite magnitudes are listed by the 31 bits
below the sign in rising order, so rounding is the choice between two neighbours of that list, and overflow is the choice of
the entry after the last finite one.
-/

namespace Sys2Proof.Machine

open Sys2Proof

/-! ### The fields of a word (R225) -/

/-- The 31 bits below the sign. -/
def magBits (w : Word) : Nat := w.toNat % 2 ^ 31

theorem f32Exp_eq (w : Word) : f32Exp w = magBits w / 2 ^ 23 := by
  unfold f32Exp magBits
  omega

theorem f32Frac_eq (w : Word) : f32Frac w = magBits w % 2 ^ 23 := by
  unfold f32Frac magBits
  omega

theorem f32IsNaN_iff (w : Word) : f32IsNaN w = true ↔ f32InfBits < magBits w := by
  have hlt : magBits w < 2 ^ 31 := Nat.mod_lt _ (by decide)
  simp only [f32IsNaN, f32Exp_eq, f32Frac_eq, f32InfBits, Bool.and_eq_true, beq_iff_eq, bne_iff_ne]
  omega

theorem f32IsInf_iff (w : Word) : f32IsInf w = true ↔ magBits w = f32InfBits := by
  have hlt : magBits w < 2 ^ 31 := Nat.mod_lt _ (by decide)
  simp only [f32IsInf, f32Exp_eq, f32Frac_eq, f32InfBits, Bool.and_eq_true, beq_iff_eq]
  omega

theorem f32IsZero_iff (w : Word) : f32IsZero w = true ↔ magBits w = 0 := by
  simp only [f32IsZero, f32Exp_eq, f32Frac_eq, Bool.and_eq_true, beq_iff_eq]
  omega

theorem f32Finite_iff (w : Word) : F32Finite w ↔ magBits w < f32InfBits := by
  rw [F32Finite, ← Bool.not_eq_true, ← Bool.not_eq_true, f32IsNaN_iff, f32IsInf_iff]
  omega

theorem toNat_f32Pack {bits : Nat} (h : bits < 2 ^ 31) (sign : Bool) :
    (f32Pack sign bits).toNat = (if sign then 2 ^ 31 else 0) + bits := by
  rw [f32Pack, BitVec.toNat_ofNat]
  cases sign <;> simp <;> omega

theorem magBits_f32Pack {bits : Nat} (h : bits < 2 ^ 31) (sign : Bool) : magBits (f32Pack sign bits) = bits := by
  rw [magBits, toNat_f32Pack h]
  cases sign <;> simp <;> omega

theorem f32Sign_iff (w : Word) : f32Sign w = true ↔ 2 ^ 31 ≤ w.toNat := by
  have hlt := w.isLt
  rw [f32Sign, ← BitVec.testBit_toNat, Nat.testBit_eq_decide_div_mod_eq, decide_eq_true_iff]
  omega

theorem f32Sign_f32Pack {bits : Nat} (h : bits < 2 ^ 31) (sign : Bool) : f32Sign (f32Pack sign bits) = sign := by
  rw [Bool.eq_iff_iff, f32Sign_iff, toNat_f32Pack h]
  cases sign with
  | true => simp
  | false => simpa using h

theorem getLsbD_zero_eq (w : Word) : w.getLsbD 0 = decide (magBits w % 2 = 1) := by
  rw [← BitVec.testBit_toNat, Nat.testBit_eq_decide_div_mod_eq, magBits]
  congr 1
  simp only [eq_iff_iff]
  omega

/-! ### The list of finite magnitudes -/

/-- The magnitude in units of 2^-300 that the bits below the sign stand for; past the finite ones, what the next exponents
would stand for. -/
def unitsOfBits (b : Nat) : Nat :=
  (if b / 2 ^ 23 = 0 then b % 2 ^ 23 else 2 ^ 23 + b % 2 ^ 23) * 2 ^ ((if b / 2 ^ 23 = 0 then 1 else b / 2 ^ 23) + 150)

theorem f32Units_eq (w : Word) : f32Units w = unitsOfBits (magBits w) := by
  rw [f32Units, f32Mant, f32Scale, f32Exp_eq, f32Frac_eq, unitsOfBits]

theorem unitsOfBits_of_normal {b : Nat} (h : b / 2 ^ 23 ≠ 0) :
    unitsOfBits b = (2 ^ 23 + b % 2 ^ 23) * 2 ^ (b / 2 ^ 23 + 150) := by
  rw [unitsOfBits, if_neg h, if_neg h]

/-- The magnitudes of one scale, the first of the next included. -/
theorem unitsOfBits_scale {k q : Nat} (hk : 1 ≤ k) (hq : q ≤ 2 ^ 24) (h : k = 1 ∨ 2 ^ 23 ≤ q) :
    unitsOfBits ((k - 1) * 2 ^ 23 + q) = q * 2 ^ (k + 150) := by
  obtain hsub | hnormal | rfl : q < 2 ^ 23 ∨ (2 ^ 23 ≤ q ∧ q < 2 ^ 24) ∨ q = 2 ^ 24 := by omega
  · obtain rfl : k = 1 := by omega
    have hexp : ((1 - 1) * 2 ^ 23 + q) / 2 ^ 23 = 0 := by omega
    have hfrac : ((1 - 1) * 2 ^ 23 + q) % 2 ^ 23 = q := by omega
    rw [unitsOfBits, hexp, hfrac, if_pos rfl, if_pos rfl]
  · have hexp : ((k - 1) * 2 ^ 23 + q) / 2 ^ 23 = k := by omega
    have hfrac : 2 ^ 23 + ((k - 1) * 2 ^ 23 + q) % 2 ^ 23 = q := by omega
    rw [unitsOfBits_of_normal (by omega), hexp, hfrac]
  · have hexp : ((k - 1) * 2 ^ 23 + 2 ^ 24) / 2 ^ 23 = k + 1 := by omega
    have hfrac : 2 ^ 23 + ((k - 1) * 2 ^ 23 + 2 ^ 24) % 2 ^ 23 = 2 ^ 23 := by omega
    rw [unitsOfBits_of_normal (by omega), hexp, hfrac, ← Nat.pow_add, ← Nat.pow_add]
    exact congrArg (2 ^ ·) (by omega)

theorem unitsOfBits_strictMono : StrictMono unitsOfBits := by
  refine strictMono_nat_of_lt_succ fun b => ?_
  obtain ⟨k, q, hk, hq, hnormal, rfl⟩ : ∃ k q, 1 ≤ k ∧ q < 2 ^ 24 ∧ (k = 1 ∨ 2 ^ 23 ≤ q) ∧ b = (k - 1) * 2 ^ 23 + q :=
    ⟨max 1 (b / 2 ^ 23), b - (max 1 (b / 2 ^ 23) - 1) * 2 ^ 23, by omega, by omega, by omega, by omega⟩
  rw [Nat.add_assoc, unitsOfBits_scale hk hq.le hnormal, unitsOfBits_scale hk hq (by omega)]
  exact Nat.mul_lt_mul_of_pos_right (Nat.lt_succ_self q) (Nat.two_pow_pos _)

/-! ### Rounding (R225) -/

/-- The entry of the list that rounding chooses, before what is past the finite ones becomes infinity. -/
def roundIndex (units : Nat) : Nat := (roundScale units - 1) * 2 ^ 23 + roundShift units (roundScale units + 150)

/-- The significand before rounding has at most 24 bits, and 24 where the scale is not the least. -/
theorem significand_bounds (u : Nat) : u / 2 ^ (roundScale u + 150) < 2 ^ 24 ∧
    (roundScale u = 1 ∨ 2 ^ 23 ≤ u / 2 ^ (roundScale u + 150)) := by
  have hpos : 0 < 2 ^ (roundScale u + 150) := Nat.two_pow_pos _
  constructor
  · rw [Nat.div_lt_iff_lt_mul hpos, ← Nat.pow_add]
    refine Nat.lt_of_lt_of_le Nat.lt_log2_self (Nat.pow_le_pow_right (by decide) ?_)
    unfold roundScale
    omega
  · by_cases hscale : roundScale u = 1
    · exact .inl hscale
    · right
      have hlog : Nat.log2 u = 23 + (roundScale u + 150) := by
        unfold roundScale at hscale ⊢
        omega
      have hne : u ≠ 0 := by
        rintro rfl
        exact absurd hlog (by simp)
      rw [Nat.le_div_iff_mul_le hpos, ← Nat.pow_add, ← hlog]
      exact Nat.log2_self_le hne

/-- Between two neighbours of the list, rounding takes the nearer, and of two equally near the even one. -/
theorem roundIndex_cases (u : Nat) : ∃ b, unitsOfBits b ≤ u ∧ u < unitsOfBits (b + 1) ∧
    ((roundIndex u = b ∧ (u - unitsOfBits b < unitsOfBits (b + 1) - u ∨
        (u - unitsOfBits b = unitsOfBits (b + 1) - u ∧ b % 2 = 0))) ∨
     (roundIndex u = b + 1 ∧ (unitsOfBits (b + 1) - u < u - unitsOfBits b ∨
        (u - unitsOfBits b = unitsOfBits (b + 1) - u ∧ b % 2 = 1)))) := by
  obtain ⟨hq, hnormal⟩ := significand_bounds u
  have hk : 1 ≤ roundScale u := Nat.le_max_left _ _
  have hpos : 0 < 2 ^ (roundScale u + 150) := Nat.two_pow_pos _
  have hdiv := Nat.div_add_mod u (2 ^ (roundScale u + 150))
  have hmod := Nat.mod_lt u hpos
  refine ⟨(roundScale u - 1) * 2 ^ 23 + u / 2 ^ (roundScale u + 150), ?_⟩
  rw [Nat.add_assoc, unitsOfBits_scale hk hq.le hnormal, unitsOfBits_scale hk hq (by omega), roundIndex, roundShift]
  rw [Nat.mul_comm] at hdiv
  rw [Nat.succ_mul]
  generalize u / 2 ^ (roundScale u + 150) * 2 ^ (roundScale u + 150) = low at *
  generalize u / 2 ^ (roundScale u + 150) = q at *
  generalize u % 2 ^ (roundScale u + 150) = r at *
  generalize 2 ^ (roundScale u + 150) = ulp at *
  split_ifs <;> omega

/-- No entry of the list is nearer than the rounded one, and where another is as near, the rounded one is even. -/
theorem roundIndex_nearest (u b : Nat) :
    ((unitsOfBits (roundIndex u) : Int) - u).natAbs ≤ ((unitsOfBits b : Int) - u).natAbs ∧
    (((unitsOfBits (roundIndex u) : Int) - u).natAbs = ((unitsOfBits b : Int) - u).natAbs →
      unitsOfBits b ≠ unitsOfBits (roundIndex u) → roundIndex u % 2 = 0) := by
  obtain ⟨c, hlow, hhigh, hround⟩ := roundIndex_cases u
  have hside : unitsOfBits b ≤ unitsOfBits c ∨ unitsOfBits (c + 1) ≤ unitsOfBits b := by
    obtain hle | hle : b ≤ c ∨ c + 1 ≤ b := by omega
    · exact .inl (unitsOfBits_strictMono.monotone hle)
    · exact .inr (unitsOfBits_strictMono.monotone hle)
  obtain ⟨hindex, hnear⟩ | ⟨hindex, hnear⟩ := hround <;>
    · rw [hindex]
      generalize unitsOfBits c = low at *
      generalize unitsOfBits (c + 1) = high at *
      omega

theorem two_pow_of_succ {half e e' : Nat} (h : half = 2 ^ e) (he : e' = e + 1) : 2 ^ e' = 2 * half := by
  rw [he, h, Nat.pow_succ']

/-- The last finite magnitude and the one after it, in units of half their distance. -/
theorem unitsOfBits_top {half : Nat} (h : half = 2 ^ 403) :
    unitsOfBits (f32InfBits - 1) = (2 ^ 24 - 1) * (2 * half) ∧ unitsOfBits f32InfBits = 2 ^ 24 * (2 * half) := by
  have hulp : 2 ^ (254 + 150) = 2 * half := two_pow_of_succ h rfl
  have hlast := unitsOfBits_scale (k := 254) (q := 2 ^ 24 - 1) (by decide) (by decide) (.inr (by decide))
  have hpast := unitsOfBits_scale (k := 254) (q := 2 ^ 24) (by decide) (by decide) (.inr (by decide))
  rw [hulp] at hlast hpast
  exact ⟨hlast, hpast⟩

/-- Rounding leaves the finite magnitudes exactly from halfway past the last one. -/
theorem f32InfBits_le_roundIndex_iff (u : Nat) : f32InfBits ≤ roundIndex u ↔ (2 ^ 25 - 1) * 2 ^ 403 ≤ u := by
  obtain ⟨c, hlow, hhigh, hround⟩ := roundIndex_cases u
  obtain ⟨half, hhalf⟩ : ∃ half, half = 2 ^ 403 := ⟨_, rfl⟩
  obtain ⟨hlast, hpast⟩ := unitsOfBits_top hhalf
  rw [← hhalf]
  clear hhalf
  obtain hlt | rfl | hgt : c + 1 ≤ f32InfBits - 1 ∨ c = f32InfBits - 1 ∨ f32InfBits ≤ c := by omega
  · have := unitsOfBits_strictMono.monotone hlt
    omega
  · have hodd : (f32InfBits - 1) % 2 = 1 := rfl
    have hnext : f32InfBits - 1 + 1 = f32InfBits := rfl
    rw [hnext] at hhigh hround
    omega
  · have := unitsOfBits_strictMono.monotone hgt
    omega

/-! ### Rounded results (R225) -/

/-- A magnitude with a sign. -/
def signed (sign : Bool) (u : Nat) : Int := if sign then -(u : Int) else u

theorem f32Value_eq (w : Word) : f32Value w = signed (f32Sign w) (unitsOfBits (magBits w)) := by
  rw [f32Value, f32Units_eq, signed]

theorem roundBits_eq (u : Nat) : roundBits u = min f32InfBits (roundIndex u) := rfl

theorem roundBits_le (u : Nat) : roundBits u ≤ f32InfBits := Nat.min_le_left _ _

theorem roundBits_lt (u : Nat) : roundBits u < 2 ^ 31 := Nat.lt_of_le_of_lt (roundBits_le u) (by decide)

theorem f32IsNaN_rounded (sign : Bool) (u : Nat) : f32IsNaN (f32Pack sign (roundBits u)) = false := by
  rw [← Bool.not_eq_true, f32IsNaN_iff, magBits_f32Pack (roundBits_lt u)]
  exact Nat.not_lt.mpr (roundBits_le u)

theorem f32IsInf_rounded_iff (sign : Bool) (u : Nat) :
    f32IsInf (f32Pack sign (roundBits u)) = true ↔ (2 ^ 25 - 1) * 2 ^ 403 ≤ u := by
  rw [f32IsInf_iff, magBits_f32Pack (roundBits_lt u), roundBits_eq, min_eq_left_iff, f32InfBits_le_roundIndex_iff]

/-- No finite value is nearer to an exact one than `r`, and where another is as near, `r` has an even significand. -/
def NearestEven (r : Word) (exact : Int) : Prop :=
  ∀ w : Word, (f32Value r - exact).natAbs ≤ (f32Value w - exact).natAbs ∧
    ((f32Value r - exact).natAbs = (f32Value w - exact).natAbs → f32Value w ≠ f32Value r → r.getLsbD 0 = false)

/-- A value of the other sign is no nearer than zero. -/
theorem rounded_nearestEven {sign : Bool} {u : Nat} (hfinite : F32Finite (f32Pack sign (roundBits u))) :
    NearestEven (f32Pack sign (roundBits u)) (signed sign u) := by
  have hbits : roundBits u = roundIndex u := by
    rw [f32Finite_iff, magBits_f32Pack (roundBits_lt u)] at hfinite
    rw [roundBits_eq] at hfinite ⊢
    omega
  intro w
  have hzero : unitsOfBits 0 = 0 := by simp [unitsOfBits]
  have hnearest := roundIndex_nearest u (magBits w)
  have hnearestZero := roundIndex_nearest u 0
  rw [getLsbD_zero_eq, f32Value_eq, f32Value_eq, magBits_f32Pack (roundBits_lt u), f32Sign_f32Pack (roundBits_lt u), hbits,
    decide_eq_false_iff_not]
  rw [hzero] at hnearestZero
  generalize unitsOfBits (roundIndex u) = rounded at *
  generalize unitsOfBits (magBits w) = other at *
  cases sign <;> cases f32Sign w <;> simp only [signed, if_true, if_false, Bool.false_eq_true] <;> omega

/-- A finite sum is the rounded exact sum, with the sign the exact sum has where it is not zero. -/
theorem f32AddFinite_eq (a b : Word) : ∃ sign, f32AddFinite a b = f32Pack sign (roundBits (f32Value a + f32Value b).natAbs) ∧
    signed sign (f32Value a + f32Value b).natAbs = f32Value a + f32Value b := by
  rw [f32AddFinite]
  generalize f32Value a + f32Value b = sum
  by_cases hsum : sum = 0
  · subst hsum
    exact ⟨f32Sign a && f32Sign b, rfl, by simp [signed]⟩
  · refine ⟨decide (sum < 0), if_neg hsum, ?_⟩
    rw [signed]
    split_ifs with hneg <;> simp only [decide_eq_true_eq] at hneg <;> omega

theorem f32Add_of_finite {a b : Word} (ha : F32Finite a) (hb : F32Finite b) : f32Add a b = f32AddFinite a b := by
  obtain ⟨hanan, hainf⟩ := ha
  obtain ⟨hbnan, hbinf⟩ := hb
  simp [f32Add, hanan, hainf, hbnan, hbinf]

/-- Settles O48: the sum is the rounded exact sum. -/
theorem additionRoundsToNearestEven : Obligations.AdditionRoundsToNearestEven := by
  intro a b ha hb exact r
  obtain ⟨sign, hr, hexact⟩ := f32AddFinite_eq a b
  have hr : r = f32Pack sign (roundBits exact.natAbs) := (f32Add_of_finite ha hb).trans hr
  rw [hr]
  refine ⟨f32IsNaN_rounded _ _, f32IsInf_rounded_iff _ _, fun hfinite w _ => ?_⟩
  have hnearest := rounded_nearestEven hfinite w
  rwa [hexact] at hnearest

/-- The product of two finite magnitudes in units of 2^-300. -/
def productUnits (a b : Word) : Nat := f32Mant a * f32Mant b * 2 ^ (f32Scale a + f32Scale b)

theorem f32Units_mul {unit : Nat} (hunit : unit = 2 ^ 300) (a b : Word) :
    f32Units a * f32Units b = productUnits a b * unit := by
  have hpow : 2 ^ (f32Scale a + 150) * 2 ^ (f32Scale b + 150) = 2 ^ (f32Scale a + f32Scale b) * unit := by
    rw [hunit, ← Nat.pow_add, ← Nat.pow_add]
    exact congrArg (2 ^ ·) (by omega)
  rw [f32Units, f32Units, productUnits, Nat.mul_mul_mul_comm, hpow, ← Nat.mul_assoc]

theorem signed_mul_signed (s t : Bool) (u v : Nat) : signed s u * signed t v = signed (s != t) (u * v) := by
  cases s <;> cases t <;> simp [signed]

theorem signed_mul (s : Bool) (u k : Nat) : signed s (u * k) = signed s u * k := by
  cases s <;> simp [signed]

theorem natAbs_signed (s : Bool) (u : Nat) : (signed s u).natAbs = u := by
  cases s <;> simp [signed]

theorem f32Value_mul {unit : Nat} (hunit : unit = 2 ^ 300) (a b : Word) :
    f32Value a * f32Value b = signed (f32Sign a != f32Sign b) (productUnits a b) * unit := by
  rw [← signed_mul, ← f32Units_mul hunit]
  exact signed_mul_signed _ _ _ _

theorem f32Mul_of_finite {a b : Word} (ha : F32Finite a) (hb : F32Finite b) :
    f32Mul a b = f32Pack (f32Sign a != f32Sign b) (roundBits (productUnits a b)) := by
  obtain ⟨hanan, hainf⟩ := ha
  obtain ⟨hbnan, hbinf⟩ := hb
  simp [f32Mul, hanan, hainf, hbnan, hbinf, productUnits]

/-- Distances in a smaller unit. -/
theorem natAbs_sub_scaled (x y : Int) (k : Nat) : (x * k - y * k).natAbs = (x - y).natAbs * k := by
  rw [← Int.sub_mul, Int.natAbs_mul, Int.natAbs_natCast]

theorem two_pow_cast {unit e : Nat} (h : unit = 2 ^ e) : (2 : Int) ^ e = unit := by
  rw [h, Nat.cast_pow, Nat.cast_ofNat]

/-- Settles O49: the product is the rounded exact product, the latter in units of 2^-600. -/
theorem multiplicationRoundsToNearestEven : Obligations.MultiplicationRoundsToNearestEven := by
  intro a b ha hb exact r
  obtain ⟨unit, hunit⟩ : ∃ unit, unit = 2 ^ 300 := ⟨_, rfl⟩
  have hpos : 0 < unit := Nat.lt_of_lt_of_eq (Nat.two_pow_pos _) hunit.symm
  have hexact : exact = signed (f32Sign a != f32Sign b) (productUnits a b) * unit := f32Value_mul hunit a b
  have hr : r = f32Pack (f32Sign a != f32Sign b) (roundBits (productUnits a b)) := f32Mul_of_finite ha hb
  have hbound : (2 ^ 25 - 1) * 2 ^ 703 = (2 ^ 25 - 1) * 2 ^ 403 * unit := by
    rw [hunit, Nat.mul_assoc, ← Nat.pow_add]
  rw [hr, hexact, two_pow_cast hunit, hbound, Int.natAbs_mul, natAbs_signed, Int.natAbs_natCast,
    Nat.mul_le_mul_right_iff hpos]
  refine ⟨f32IsNaN_rounded _ _, f32IsInf_rounded_iff _ _, fun hfinite w _ => ?_⟩
  obtain ⟨hnear, heven⟩ := rounded_nearestEven hfinite w
  simp only [natAbs_sub_scaled]
  exact ⟨Nat.mul_le_mul_right unit hnear, fun heq => heven (Nat.eq_of_mul_eq_mul_right hpos heq)⟩

/-! ### NaN results (R225) -/

theorem f32IsNaN_f32NaN (p : Bool × Fin 8388607) : f32IsNaN (f32NaN p) = true := by
  have hlt := p.2.isLt
  rw [f32IsNaN_iff, f32NaN, magBits_f32Pack (by unfold f32InfBits; omega)]
  omega

theorem f32IsNaN_inf (sign : Bool) : f32IsNaN (f32Pack sign f32InfBits) = false := by cases sign <;> decide

theorem f32IsNaN_f32AddFinite (a b : Word) : f32IsNaN (f32AddFinite a b) = false := by
  obtain ⟨sign, hr, -⟩ := f32AddFinite_eq a b
  rw [hr, f32IsNaN_rounded]

theorem not_f32IsInf_and_f32IsZero (w : Word) : ¬ (f32IsInf w = true ∧ f32IsZero w = true) := by
  rw [f32IsInf_iff, f32IsZero_iff, f32InfBits]
  omega

/-- Settles O50: by the branches of the product and of the sum, the classes being told apart by the bits below the sign. -/
theorem naNResultsAreTheInvalidOnes : Obligations.NaNResultsAreTheInvalidOnes := by
  intro a b
  constructor
  · simp only [f32Mul, Bool.or_eq_true]
    split_ifs with hnan hinf hzero
    · rw [f32IsNaN_f32NaN]
      tauto
    · rw [f32IsNaN_f32NaN]
      refine iff_of_true rfl (.inr ?_)
      have hexcludeA := not_f32IsInf_and_f32IsZero a
      have hexcludeB := not_f32IsInf_and_f32IsZero b
      tauto
    · rw [f32IsNaN_inf]
      tauto
    · rw [f32IsNaN_rounded]
      tauto
  · simp only [f32Add, Bool.or_eq_true, Bool.and_eq_true, bne_iff_ne]
    split_ifs with hnan hinfA hboth hinfB
    · rw [f32IsNaN_f32NaN]
      tauto
    · rw [f32IsNaN_f32NaN]
      tauto
    · tauto
    · tauto
    · rw [f32IsNaN_f32AddFinite]
      tauto

/-! ### No element is -0.0 (R224) -/

/-- Every finite magnitude is a whole number of the least one. -/
theorem two_pow_151_dvd_f32Units (w : Word) : 2 ^ 151 ∣ f32Units w := by
  have hscale : 1 ≤ f32Scale w := by
    unfold f32Scale
    split_ifs with h
    · exact Nat.le_refl 1
    · exact Nat.one_le_iff_ne_zero.mpr h
  exact Dvd.dvd.mul_left (Nat.pow_dvd_pow 2 (Nat.add_le_add_right hscale 150)) _

/-- What is at least the least magnitude does not round to zero. -/
theorem roundBits_pos {u : Nat} (h : 2 ^ 151 ≤ u) : 0 < roundBits u := by
  rw [roundBits_eq, Nat.lt_min]
  refine ⟨by decide, ?_⟩
  by_contra hzero
  have hnear := (roundIndex_nearest u 1).1
  have hone : unitsOfBits 1 = 2 ^ 151 := unitsOfBits_scale (k := 1) (q := 1) (by decide) (by decide) (.inl rfl)
  have hnone : unitsOfBits 0 = 0 := by simp [unitsOfBits]
  rw [show roundIndex u = 0 by omega, hone, hnone] at hnear
  omega

theorem two_pow_151_dvd_f32Value (w : Word) : ((2 ^ 151 : Nat) : Int) ∣ f32Value w := by
  rw [Int.natCast_dvd, f32Value_eq, natAbs_signed, ← f32Units_eq]
  exact two_pow_151_dvd_f32Units w

/-- A negative value without magnitude is -0.0. -/
theorem eq_minusZero {w : Word} (hsign : f32Sign w = true) (hvalue : f32Value w = 0) : w = 0x80000000 := by
  have hunits : unitsOfBits (magBits w) = 0 := by
    rw [← natAbs_signed (f32Sign w) (unitsOfBits (magBits w)), ← f32Value_eq, hvalue, Int.natAbs_zero]
  have hmag : magBits w = 0 := Nat.eq_zero_of_le_zero (hunits ▸ unitsOfBits_strictMono.le_apply)
  have hlt := w.isLt
  rw [f32Sign_iff] at hsign
  rw [magBits] at hmag
  exact BitVec.eq_of_toNat_eq (by rw [show (0x80000000 : Word).toNat = 2 ^ 31 from rfl]; omega)

/-- A finite sum is -0.0 only if both operands are negative and nothing is left of the sum, so only if both are -0.0. -/
theorem f32AddFinite_ne_minusZero {a b : Word} (ha : a ≠ 0x80000000) : f32AddFinite a b ≠ 0x80000000 := by
  intro heq
  rw [f32AddFinite] at heq
  by_cases hsum : f32Value a + f32Value b = 0
  · rw [if_pos hsum] at heq
    have hsigns := congrArg f32Sign heq
    rw [f32Sign_f32Pack (by decide), show f32Sign 0x80000000 = true by decide, Bool.and_eq_true] at hsigns
    obtain ⟨hsignA, hsignB⟩ := hsigns
    refine ha (eq_minusZero hsignA ?_)
    rw [f32Value, if_pos hsignA] at hsum ⊢
    rw [f32Value, if_pos hsignB] at hsum
    omega
  · rw [if_neg hsum] at heq
    have hdvd := Int.natCast_dvd.mp (dvd_add (two_pow_151_dvd_f32Value a) (two_pow_151_dvd_f32Value b))
    have hpos := roundBits_pos (Nat.le_of_dvd (Int.natAbs_pos.mpr hsum) hdvd)
    have hmag := congrArg magBits heq
    rw [magBits_f32Pack (roundBits_lt _), show magBits 0x80000000 = 0 by decide] at hmag
    exact hpos.ne' hmag

theorem ne_minusZero_of_f32IsNaN {w : Word} (h : f32IsNaN w = true) : w ≠ 0x80000000 := by
  rintro rfl
  exact absurd h (by decide)

theorem ne_minusZero_of_f32IsInf {w : Word} (h : f32IsInf w = true) : w ≠ 0x80000000 := by
  rintro rfl
  exact absurd h (by decide)

/-- A sum is -0.0 only if both operands are. -/
theorem f32Add_ne_minusZero {a b : Word} (ha : a ≠ 0x80000000) : f32Add a b ≠ 0x80000000 := by
  rw [f32Add]
  split_ifs with hnan hinfA hopposite hinfB
  · exact ne_minusZero_of_f32IsNaN (f32IsNaN_f32NaN _)
  · exact ne_minusZero_of_f32IsNaN (f32IsNaN_f32NaN _)
  · exact ha
  · exact ne_minusZero_of_f32IsInf hinfB
  · exact f32AddFinite_ne_minusZero ha

theorem foldl_f32Add_ne_minusZero (term : Nat → Word) (ks : List Nat) :
    ∀ acc : Word, acc ≠ 0x80000000 → ks.foldl (fun acc k => f32Add acc (term k)) acc ≠ 0x80000000 := by
  induction ks with
  | nil => exact fun _ hacc => hacc
  | cons k ks ih => exact fun acc hacc => ih _ (f32Add_ne_minusZero hacc)

/-- Settles O51: the accumulator starts at +0.0, and no addition makes it -0.0. -/
theorem noElementIsMinusZero : Obligations.NoElementIsMinusZero := by
  intro n a b e he
  simp only [matMul, List.mem_flatMap, List.mem_map] at he
  obtain ⟨i, -, j, -, rfl⟩ := he
  exact foldl_f32Add_ne_minusZero _ _ 0 (by decide)

end Sys2Proof.Machine
end
